-- ==== Sys2Proof/Word.lean ====
section
/-! DEFINITION. The words that cross the sequencer's ports (R67, R70, R108): each is one whole value of a fixed
width, so no byte order and no alignment apply (R67, R69). Every value is unsigned (R9). -/

namespace Sys2Proof

/-- One byte: a buffer cell, a status code, a data byte, a divisor (R70). -/
abbrev Byte := BitVec 8

/-- A host command word, 32 bits (R95). -/
abbrev CommandWord := BitVec 32

/-- A bus-controller event word, 16 bits: STATUS in [15:8], DATA in [7:0] (R90). -/
abbrev EventWord := BitVec 16

/-- An action word from the sequencer to the bus controller, 16 bits (R101). -/
abbrev ActionWord := BitVec 16

/-- A host read address, 16 bits (R62). -/
abbrev ReadAddr := BitVec 16

/-- A host read word, 32 bits (R63, R70). -/
abbrev ReadWord := BitVec 32

end Sys2Proof
end

