-- ==== Sys2Proof/Syntax.lean ====
section
/-! DEFINITION. What the sequencer and the bus controller decode: one constructor of `Instr` per row of
spec/opcode_table.json. The sequencer runs no instruction stream (R2): its "instructions" are its inputs, one per
step. The seven ACT rows are the words it sends out; their constructor stands for the bus controller taking that
word (R120 to R126; log entry 2). A host read (R62 to R65) is a step too, but no row of the table, so it is no
`Instr`: its meaning is `Machine.execHostRead`. -/

namespace Sys2Proof

/-- The twelve event categories, the source's BusEvent (R92). -/
inductive BusEvent where
  | start | repeatedStart
  | addrAckTx | addrNackTx | dataAckTx | dataNackTx
  | addrAckRx | addrNackRx | dataAckRx | dataNackRx
  | arbitrationLost | unknown
  deriving DecidableEq, Repr

/-- One input of the sequencer, or one action word the bus controller takes. -/
inductive Instr where
  -- host commands (R96, R97)
  | nop
  | init (div : Byte) (presc : BitVec 2)
  | write (addr : BitVec 7) (len : Byte)
  | read (addr : BitVec 7) (len : Byte)
  | retire
  | bufwr (idx : Byte) (data : Byte)
  -- reserved command words (R98): the whole word, with bit 31 clear and with bit 31 set
  | reservedCmd (w : CommandWord)
  | reservedCmdHi (w : CommandWord)
  -- events (R90, R92): the raw status code and the data byte
  | evStart (status data : Byte)
  | evRepeatedStart (status data : Byte)
  | evAddrAckTx (status data : Byte)
  | evAddrNackTx (status data : Byte)
  | evDataAckTx (status data : Byte)
  | evDataNackTx (status data : Byte)
  | evArbitrationLost (status data : Byte)
  | evAddrAckRx (status data : Byte)
  | evAddrNackRx (status data : Byte)
  | evDataAckRx (status data : Byte)
  | evDataNackRx (status data : Byte)
  | evUnknown (status data : Byte)
  -- the timeout source's assertion (R105)
  | timeout
  -- action words taken by the bus controller (R102)
  | actInit (div : Byte) (presc : BitVec 2)
  | actStart
  | actSend (b : Byte)
  | actArmAck
  | actArmNack
  | actStop
  | actReinit (div : Byte) (presc : BitVec 2)
  deriving DecidableEq, Repr

/-- The action kinds the sequencer emits, with their operands (R102, R103). Kinds 0 and 8 to 15 are never emitted,
so they have no constructor. -/
inductive Action where
  | init (div : Byte) (presc : BitVec 2)
  | start
  | send (b : Byte)
  | armAck
  | armNack
  | stop
  | reinit (div : Byte) (presc : BitVec 2)
  deriving DecidableEq, Repr

/-- A word on the port it arrives on. The port tells a decoder the word's kind (R108). -/
inductive PortWord where
  /-- The host's command port (R95). -/
  | command (w : CommandWord)
  /-- The bus controller's event port (R90). -/
  | event (w : EventWord)
  /-- The timeout source's line: it carries no bits (R105). -/
  | timeout
  /-- The sequencer's action port, as the bus controller reads it (R101). -/
  | action (w : ActionWord)
  deriving DecidableEq, Repr

end Sys2Proof
end

