-- ==== Sys2Proof/Config.lean ====
section
/-! DEFINITION. The implementation parameters (R7, R8, R50), which are arguments of the step, the values this model's
own step has for them, and the free values. Nothing here is state. -/

namespace Sys2Proof

/-- The two status parameters: STATUS_MASK, and STATUS_CODE as a partial map, since the category Unknown has no
code (R7, R8). -/
structure StatusParams where
  mask : Byte
  code : BusEvent → Option Byte

/-- The eleven named categories, in the order of R92. -/
def namedEvents : List BusEvent :=
  [.start, .repeatedStart, .addrAckTx, .addrNackTx, .dataAckTx, .dataNackTx, .addrAckRx, .addrNackRx,
    .dataAckRx, .dataNackRx, .arbitrationLost]

/-- The three constraints of R8: the codes are pairwise distinct, each is unchanged by the mask, and exactly the
category Unknown has none. -/
structure StatusParams.Valid (p : StatusParams) : Prop where
  distinct : ∀ c d v, p.code c = some v → p.code d = some v → c = d
  masked : ∀ c v, p.code c = some v → v &&& p.mask = v
  unknown_only : ∀ c, p.code c = none ↔ c = .unknown

/-- The default code table of R93 (PRESUMED: the spec takes it from general knowledge of the AVR two-wire
interface; log entry 3). -/
def avrStatusCode : BusEvent → Option Byte
  | .start => some 0x08
  | .repeatedStart => some 0x10
  | .addrAckTx => some 0x18
  | .addrNackTx => some 0x20
  | .dataAckTx => some 0x28
  | .dataNackTx => some 0x30
  | .arbitrationLost => some 0x38
  | .addrAckRx => some 0x40
  | .addrNackRx => some 0x48
  | .dataAckRx => some 0x50
  | .dataNackRx => some 0x58
  | .unknown => none

/-- A predicate on the clock divisor and the prescaler select. -/
abbrev ClockOk := Byte → BitVec 2 → Bool

/-- The parameters of R7, all of them arguments of the step (`Machine.stepWith`). -/
structure Params where
  /-- CAP, the transfer buffer's capacity in bytes. -/
  cap : Nat
  /-- STATUS_MASK and STATUS_CODE. -/
  status : StatusParams
  /-- CLOCK_OK(div, presc): whether a clock configuration is valid. -/
  clockOk : ClockOk
  /-- T_TIMEOUT, the timeout source's bound, or none. The model admits TIMEOUT at any step, whatever this is (R177), so no
  rule reads it (log entry 5). -/
  timeoutBound : Option Nat

/-- The ranges of R7 and the constraints of R8. -/
structure Params.Valid (p : Params) : Prop where
  cap_ge : 2 ≤ p.cap
  cap_le : p.cap ≤ 256
  status : p.status.Valid

/-! ### The parameters of this model's own step -/

/-- The status parameters this model runs with: the defaults of R7 and R93 (log entry 3). -/
def Config.status : StatusParams := { mask := 0xF8, code := avrStatusCode }

/-- CAP is 128 for this hardware (R7; log entry 14). -/
def Config.cap : Nat := 128

/-- CLOCK_OK is OPEN in R7, so it has no body (log entry 4). -/
opaque Config.clockOk : ClockOk

/-- T_TIMEOUT is OPEN in R7, so it has no body (log entry 5). -/
opaque Config.timeoutBound : Option Nat

/-- The parameters of `Machine.step`. -/
def Config.params : Params where
  cap := Config.cap
  status := Config.status
  clockOk := Config.clockOk
  timeoutBound := Config.timeoutBound

/-! ### Free values -/

/-- The free value of the n-th draw. A read of a never-written buffer cell is a fresh draw (R148). What REINIT
leaves in the controller's status and data registers is one too (log entries 6 and 8). -/
opaque Config.freeByte : Nat → Byte

end Sys2Proof
end

