-- ==== Sys2Proof/Decode.lean ====
section
/-! DEFINITION. The decoder of every port (R90 to R98, R101 to R103), total, refusing by name, and after it the
encoder. The port decides the kind of a word (R108). -/

namespace Sys2Proof

/-- `w[lo+n-1 : lo]` in the spec's slicing (R9). -/
abbrev field {k : Nat} (w : BitVec k) (lo n : Nat) : BitVec n := w.extractLsb' lo n

/-- Why a word of a port stands for nothing. -/
inductive DecodeError where
  /-- A 16-bit word that no rule emits as an action: kind 0 or 8 to 15, or a bit that R101 says is 0 is set (R102). -/
  | notAnAction (w : ActionWord)
  deriving DecidableEq, Repr

/-! ### Events -/

/-- The category of a raw status code (R91, R92): the masked code's place in the table, Unknown where it has none. R8 lets a
model reject a parameter set that breaks its constraints. DESIGN CHOICE (log entry 17): none is rejected, a code that two
categories share goes to the first of them in `namedEvents`, and a code given to Unknown is not looked at. -/
def StatusParams.category (p : StatusParams) (status : Byte) : BusEvent :=
  (namedEvents.find? fun c => p.code c == some (status &&& p.mask)).getD .unknown

/-- The input that an event of category `c` is. -/
def eventInstr (c : BusEvent) (status data : Byte) : Instr :=
  match c with
  | .start => .evStart status data
  | .repeatedStart => .evRepeatedStart status data
  | .addrAckTx => .evAddrAckTx status data
  | .addrNackTx => .evAddrNackTx status data
  | .dataAckTx => .evDataAckTx status data
  | .dataNackTx => .evDataNackTx status data
  | .addrAckRx => .evAddrAckRx status data
  | .addrNackRx => .evAddrNackRx status data
  | .dataAckRx => .evDataAckRx status data
  | .dataNackRx => .evDataNackRx status data
  | .arbitrationLost => .evArbitrationLost status data
  | .unknown => .evUnknown status data

/-- Event decode for any status parameters (R90 to R92). Every event word is legal (R111). -/
def StatusParams.decodeEvent (p : StatusParams) (w : EventWord) : Instr :=
  eventInstr (p.category (field w 8 8)) (field w 8 8) (field w 0 8)

/-- Event decode with the parameters of this model's own step. -/
def decodeEvent (w : EventWord) : Instr := Config.status.decodeEvent w

/-! ### Commands -/

/-- A command word's opcode OP (R95). -/
def opOf (w : CommandWord) : BitVec 4 := field w 28 4

/-- A command word is reserved if its OP is 6 to 15 or a bit marked 0 in R97 is 1 (R98). -/
def isReserved (w : CommandWord) : Bool :=
  match (opOf w).toNat with
  | 0 => field w 0 28 != 0
  | 1 => field w 10 18 != 0
  | 2 => field w 23 5 != 0 || field w 8 8 != 0
  | 3 => field w 23 5 != 0 || field w 8 8 != 0
  | 4 => field w 0 28 != 0
  | 5 => field w 16 12 != 0
  | _ => true

/-- Which of the two reserved rows of the table a reserved word is: bit 31 tells. -/
def reservedInstr (w : CommandWord) : Instr :=
  if w.msb then .reservedCmdHi w else .reservedCmd w

/-- Command decode (R96 to R98): total, every reserved word going to a reserved row. -/
def decodeCommand (w : CommandWord) : Instr :=
  if isReserved w then reservedInstr w
  else
    match (opOf w).toNat with
    | 0 => .nop
    | 1 => .init (field w 0 8) (field w 8 2)
    | 2 => .write (field w 16 7) (field w 0 8)
    | 3 => .read (field w 16 7) (field w 0 8)
    | 4 => .retire
    | 5 => .bufwr (field w 8 8) (field w 0 8)
    | _ => reservedInstr w

/-! ### Actions -/

/-- Action decode, as the bus controller reads the action port (R101 to R103). -/
def decodeAction (w : ActionWord) : Except DecodeError Instr :=
  match (field w 12 4).toNat with
  | 1 => if field w 10 2 = 0 then .ok (.actInit (field w 0 8) (field w 8 2)) else .error (.notAnAction w)
  | 2 => if field w 0 12 = 0 then .ok .actStart else .error (.notAnAction w)
  | 3 => if field w 8 4 = 0 then .ok (.actSend (field w 0 8)) else .error (.notAnAction w)
  | 4 => if field w 0 12 = 0 then .ok .actArmAck else .error (.notAnAction w)
  | 5 => if field w 0 12 = 0 then .ok .actArmNack else .error (.notAnAction w)
  | 6 => if field w 0 12 = 0 then .ok .actStop else .error (.notAnAction w)
  | 7 => if field w 10 2 = 0 then .ok (.actReinit (field w 0 8) (field w 8 2)) else .error (.notAnAction w)
  | _ => .error (.notAnAction w)

/-- The decoder of a word on its port (R108), for any status parameters (R50, R93). -/
def decodeWith (p : StatusParams) : PortWord → Except DecodeError Instr
  | .command w => .ok (decodeCommand w)
  | .event w => .ok (p.decodeEvent w)
  | .timeout => .ok .timeout
  | .action w => decodeAction w

/-- The decoder with the parameters of this model's own step. -/
def decode (w : PortWord) : Except DecodeError Instr := decodeWith Config.status w

/-- The port word an opcode-table word of `nbits` bits is (log entry 9): 32 bits are a command, 16 bits an event,
and a row of no bits is the TIMEOUT line. A count of bits in whole bytes may give that row as a byte, so a word of at
most 8 bits and value 0 is placed on that line too, though R108 knows no such word on any port (DESIGN CHOICE, log
entry 9). The ACT rows are 16-bit words of an OUTPUT port whose words are the same numbers as event words, so a number
alone cannot stand for one. -/
def tablePort (nbits w : Nat) : Option PortWord :=
  if nbits = 32 then some (.command (BitVec.ofNat 32 w))
  else if nbits = 16 then some (.event (BitVec.ofNat 16 w))
  else if nbits ≤ 8 ∧ w = 0 then some .timeout
  else none

/-- The input that the decoder reads from an opcode-table word. -/
def decodeTableWord (nbits w : Nat) : Option Instr :=
  match tablePort nbits w with
  | some pw => (decode pw).toOption
  | none => none

/-! ### The encoder -/

/-- An action's 16-bit word: KIND, two zero bits, PRESC, BYTE (R101), in the forms of R103. -/
def Action.word : Action → ActionWord
  | .init div presc => 0x1000#16 ||| presc.setWidth 16 <<< 8 ||| div.setWidth 16
  | .start => 0x2000
  | .send b => 0x3000#16 ||| b.setWidth 16
  | .armAck => 0x4000
  | .armNack => 0x5000
  | .stop => 0x6000
  | .reinit div presc => 0x7000#16 ||| presc.setWidth 16 <<< 8 ||| div.setWidth 16

/-- An event word from its two fields (R90). -/
def eventWord (status data : Byte) : EventWord := status.setWidth 16 <<< 8 ||| data.setWidth 16

/-- The port and word of an instruction, in the forms of R90, R103 and R109. -/
def encode : Instr → PortWord
  | .nop => .command 0x00000000
  | .init div presc => .command (0x10000000#32 ||| presc.setWidth 32 <<< 8 ||| div.setWidth 32)
  | .write addr len => .command (0x20000000#32 ||| addr.setWidth 32 <<< 16 ||| len.setWidth 32)
  | .read addr len => .command (0x30000000#32 ||| addr.setWidth 32 <<< 16 ||| len.setWidth 32)
  | .retire => .command 0x40000000
  | .bufwr idx data => .command (0x50000000#32 ||| idx.setWidth 32 <<< 8 ||| data.setWidth 32)
  | .reservedCmd w => .command w
  | .reservedCmdHi w => .command w
  | .evStart status data => .event (eventWord status data)
  | .evRepeatedStart status data => .event (eventWord status data)
  | .evAddrAckTx status data => .event (eventWord status data)
  | .evAddrNackTx status data => .event (eventWord status data)
  | .evDataAckTx status data => .event (eventWord status data)
  | .evDataNackTx status data => .event (eventWord status data)
  | .evArbitrationLost status data => .event (eventWord status data)
  | .evAddrAckRx status data => .event (eventWord status data)
  | .evAddrNackRx status data => .event (eventWord status data)
  | .evDataAckRx status data => .event (eventWord status data)
  | .evDataNackRx status data => .event (eventWord status data)
  | .evUnknown status data => .event (eventWord status data)
  | .timeout => .timeout
  | .actInit div presc => .action (Action.init div presc).word
  | .actStart => .action Action.start.word
  | .actSend b => .action (Action.send b).word
  | .actArmAck => .action Action.armAck.word
  | .actArmNack => .action Action.armNack.word
  | .actStop => .action Action.stop.word
  | .actReinit div presc => .action (Action.reinit div presc).word

end Sys2Proof
end

