-- ==== Sys2Proof/Machine/State.lean ====
section
/-! DEFINITION. The state: every register of 10_state.md (R30 to R42), the transfer buffer with its written marks,
the ports to the host, the bus controller and the timeout source (R5, R6), and the bus controller's own state as
environment (R49; log entry 7). Plain data. -/

namespace Sys2Proof.Machine

/-- STATE, a 3-bit register that holds six values only (R30). -/
inductive Phase where
  | idle | address | dataTx | dataRx | completing | failed
  deriving DecidableEq, Repr

/-- RESULT, a 4-bit register that holds seven values only (R31). -/
inductive Result where
  | none | ok | addressNack | dataNack | arbitrationLost | timeout | unknownStatus
  deriving DecidableEq, Repr

/-- DIR: 0 is write, 1 is read (R35). -/
inductive Dir where
  | write | read
  deriving DecidableEq, Repr

/-- The response codes 0 to 6 (R99). -/
inductive Resp where
  | accepted | rejBusy | rejOverflow | rejZeroLen | rejNotInit | rejIndex | rejReserved
  deriving DecidableEq, Repr

/-- The acknowledge level armed in the bus controller (R124). -/
inductive AckLevel where
  | ack | nack
  deriving DecidableEq, Repr

/-- What the bus controller was last asked for by an action word it took, which the contract of R128 turns on. -/
inductive Asked where
  /-- It has taken no word since the sequencer's reset, which does not reset it (R262). -/
  | nothingYet
  /-- START (R128 b). -/
  | start
  /-- SEND of an SLA byte with this DIR (R128 c). -/
  | slaByte (dir : Dir)
  /-- SEND of a data byte (R128 d). -/
  | dataByte
  /-- ARM_ACK or ARM_NACK (R128 e). -/
  | receive (level : AckLevel)
  /-- STOP, INIT or REINIT (R128 f). -/
  | silence
  /-- It has reported an event since, and has taken no word after it. -/
  | answered
  deriving DecidableEq, Repr

/-- The bus controller's state, as far as the spec gives it: the event-pending flag and the pending START request
of R49, and the registers and requests that the actions act on (R90, R121 to R126, R241). Environment: the
sequencer's own step never reads it. -/
structure Controller where
  /-- Clock timing, programmed by INIT and REINIT (R121, R126). -/
  clkDiv : Byte
  clkPresc : BitVec 2
  /-- A START request not yet reported as Start or RepeatedStart (R49, R122). -/
  startReq : Bool
  /-- A stop request (R125). -/
  stopReq : Bool
  /-- The acknowledge request: the level to drive after the next received byte, if one is armed (R124). -/
  ackReq : Option AckLevel
  /-- The status register: the raw code of the last event reported (R90). -/
  status : Byte
  /-- The data register (R90, R123). -/
  data : Byte
  /-- The event-pending flag (R49). -/
  eventPending : Bool
  /-- The MODEL's own: what the controller was last asked for (R128; log entry 10). -/
  asked : Asked
  /-- The MODEL's own: a mark for each SEND emitted and not yet taken, oldest first, true where its byte is the SLA byte
  (R128 c, d; log entry 10). -/
  sendMarks : List Bool
  deriving DecidableEq, Repr

/-- One turn of an agent in the total order of all steps (R6, R74): a host command or read, an event from the bus
controller, a TIMEOUT assertion, or the bus controller applying the next action word (R120). -/
inductive Turn where
  | command (w : CommandWord)
  | event (w : EventWord)
  | timeout
  | read (a : ReadAddr)
  | controller
  deriving DecidableEq, Repr

/-- What a step gives the host: a response for a command, a word for a read (R6). -/
inductive Reply where
  | response (r : Resp)
  | word (w : ReadWord)
  deriving DecidableEq, Repr

/-- The transfer buffer's written cells as (index, byte) pairs, indices strictly rising and below CAP (R42, R60). A
cell's written mark is true exactly when its index is listed. A cell that is not listed holds no value: reading it
is a fresh draw (R148), so no listed pair can equal what an unlisted index reads as. -/
abbrev Memory := List Host.Cell

/-- Why a step stops with a fault. -/
inductive Fault where
  /-- Raised by BufRead or BufWrite at an index of CAP or more, which names no cell (R60). No reachable state raises
  it (R41, R181), so it is safe: it only stops runs that the spec does not have. -/
  | noSuchCell (index : Nat)
  deriving DecidableEq, Repr

/-- Why the model gives a step no meaning. -/
inductive Refusal where
  /-- An arm of exec whose instruction has no meaning yet. No arm uses it. Safe. -/
  | notModelled (mnemonic : String)
  /-- Raised by every step after an INIT whose configuration fails CLOCK_OK: R243 gives such a run no meaning.
  Safe. -/
  | clockNotOk
  /-- Raised when the bus controller reads a word that no rule emits from the action port (R102). No reachable state
  raises it. Safe. -/
  | neverEmitted (w : ActionWord)
  deriving DecidableEq, Repr

/-- The whole state. -/
structure State where
  /-- STATE (R30). -/
  state : Phase
  /-- RESULT (R31). -/
  result : Result
  /-- CURSOR, 9 bits (R33). -/
  cursor : BitVec 9
  /-- DLEN, 9 bits (R34). -/
  dlen : BitVec 9
  /-- DIR (R35). -/
  dir : Dir
  /-- ACK_ARMED (R36). -/
  ackArmed : Bool
  /-- CFG_DIV, 8 bits (R37). -/
  cfgDiv : Byte
  /-- CFG_PRESC, 2 bits (R37). -/
  cfgPresc : BitVec 2
  /-- CFG_VALID (R38). -/
  cfgValid : Bool
  /-- STRAY (R39). -/
  stray : Bool
  /-- LASTRESP (R40). -/
  lastResp : Resp
  /-- BUF with its written marks (R42). -/
  buf : Memory
  /-- The turns still to be taken, in the order they will be: every list is allowed, so every order of inputs
  offered together is (R6, R234). -/
  turns : List Turn
  /-- The action words emitted and not yet applied by the bus controller, oldest first (R101, R120). -/
  actions : List ActionWord
  /-- The host's output port in the last sequencer step (R6). -/
  reply : Option Reply
  /-- The bus controller (environment, R49). -/
  ctrl : Controller
  /-- The MODEL's own counter of free draws (R148; log entry 6). -/
  draws : Nat
  deriving DecidableEq, Repr

/-- The bus controller's state when the sequencer is reset: R262 leaves it open, so every value here is a DESIGN
CHOICE (log entry 7). -/
def Controller.reset : Controller where
  clkDiv := 0
  clkPresc := 0
  startReq := false
  stopReq := false
  ackReq := none
  status := 0
  data := 0
  eventPending := false
  asked := .nothingYet
  sendMarks := []

/-- The machine right after reset (R260): every register at the value R260 gives, every buffer cell unwritten, no
action emitted and no response given. -/
def State.reset : State where
  state := .idle
  result := .none
  cursor := 0
  dlen := 0
  dir := .write
  ackArmed := false
  cfgDiv := 0
  cfgPresc := 0
  cfgValid := false
  stray := false
  lastResp := .accepted
  buf := []
  turns := []
  actions := []
  reply := none
  ctrl := Controller.reset
  draws := 0

end Sys2Proof.Machine
end

