-- ==== Sys2Proof/Machine/Operands.lean ====
section
/-! DEFINITION. The values that rules assemble from more than one source: register codes, the SLA byte, the declared
length, and the host-read words (R30, R31, R99, R100, R104, R106, R107). -/

namespace Sys2Proof.Machine

/-- STATE's encoding (R30). -/
def Phase.code : Phase → BitVec 3
  | .idle => 0
  | .address => 1
  | .dataTx => 2
  | .dataRx => 3
  | .completing => 4
  | .failed => 5

/-- RESULT's encoding (R31). -/
def Result.code : Result → BitVec 4
  | .none => 0
  | .ok => 1
  | .addressNack => 2
  | .dataNack => 3
  | .arbitrationLost => 4
  | .timeout => 5
  | .unknownStatus => 6

/-- DIR's bit: write is 0, read is 1 (R35). -/
def Dir.code : Dir → BitVec 1
  | .write => 0
  | .read => 1

/-- The response codes (R99). -/
def Resp.code : Resp → BitVec 3
  | .accepted => 0
  | .rejBusy => 1
  | .rejOverflow => 2
  | .rejZeroLen => 3
  | .rejNotInit => 4
  | .rejIndex => 5
  | .rejReserved => 6

/-- The SLA byte: `(ADDR << 1) | DIR` (R104). -/
def slaByte (addr : BitVec 7) (dir : Dir) : Byte :=
  (addr.setWidth 8 <<< 1) ||| dir.code.setWidth 8

/-- The direction an SLA byte carries in its bit 0 (R104). -/
def slaDir (b : Byte) : Dir := if b.getLsbD 0 then .read else .write

/-- The declared length of a transaction of LEN data bytes: `L + 1`, 1 to 256 (R100). -/
def declaredLength (len : Byte) : Nat := len.toNat + 1

/-- A natural number as a 9-bit register value. -/
def reg9 (n : Nat) : BitVec 9 := BitVec.ofNat 9 n

/-- CURSOR as a number (R9: arithmetic on CURSOR and DLEN is on natural numbers). -/
def State.cur (s : State) : Nat := s.cursor.toNat

/-- DLEN as a number (R9). -/
def State.len (s : State) : Nat := s.dlen.toNat

/-- `DLEN − CURSOR`, the bytes still to be received (R176). -/
def State.remaining (s : State) : Nat := s.len - s.cur

/-- ACTIVE, which is BUSY: STATE is ADDRESS, DATA_TX or DATA_RX (R10, R43). -/
def State.busy (s : State) : Bool :=
  match s.state with
  | .address => true
  | .dataTx => true
  | .dataRx => true
  | .idle => false
  | .completing => false
  | .failed => false

/-- DONE: STATE is COMPLETING or FAILED (R44). -/
def State.done (s : State) : Bool :=
  match s.state with
  | .completing => true
  | .failed => true
  | .idle => false
  | .address => false
  | .dataTx => false
  | .dataRx => false

/-- The status word (R106): `{0, DLEN, CURSOR, RESULT, STRAY, CFG_VALID, DIR, ACK_ARMED, DONE, BUSY, STATE}`. -/
def State.statusWord (s : State) : ReadWord :=
  s.dlen.setWidth 32 <<< 22 ||| s.cursor.setWidth 32 <<< 13 ||| s.result.code.setWidth 32 <<< 9 |||
    (BitVec.ofBool s.stray).setWidth 32 <<< 8 ||| (BitVec.ofBool s.cfgValid).setWidth 32 <<< 7 |||
    s.dir.code.setWidth 32 <<< 6 ||| (BitVec.ofBool s.ackArmed).setWidth 32 <<< 5 |||
    (BitVec.ofBool s.done).setWidth 32 <<< 4 ||| (BitVec.ofBool s.busy).setWidth 32 <<< 3 |||
    s.state.code.setWidth 32

/-- The configuration word (R107): `zext_32({CFG_PRESC, CFG_DIV})`. -/
def State.cfgWord (s : State) : ReadWord := s.cfgPresc.setWidth 32 <<< 8 ||| s.cfgDiv.setWidth 32

/-- The response word of host address 2 (R63). -/
def State.respWord (s : State) : ReadWord := s.lastResp.code.setWidth 32

end Sys2Proof.Machine
end

