-- ==== Sys2Proof/Machine/Flags.lean ====
section
/-! DEFINITION. The conditions that rules test: the legality table of R160, the length and index checks of R140 and
R143, and the check that a run is inside the spec (R243). BUSY and DONE stand in Operands.lean, beside the status
word that shows them. -/

namespace Sys2Proof.Machine

/-- The legality condition of an event category in an ACTIVE state (the table of R160). -/
def State.legal (s : State) : BusEvent → Bool
  | .start => true
  | .repeatedStart => true
  | .addrAckTx => s.state == .address && s.cur == 1 && s.dir == .write
  | .dataAckTx => s.state == .dataTx
  | .addrAckRx => s.state == .address && s.cur == 1 && s.dir == .read
  | .dataAckRx => s.state == .dataRx && decide (2 ≤ s.remaining)
  | .dataNackRx => s.state == .dataRx
  | .addrNackTx => true
  | .addrNackRx => true
  | .dataNackTx => true
  | .arbitrationLost => true
  | .unknown => true

/-- The length does not fit: `L + 1 > CAP` (R143). -/
def overflows (cap : Nat) (len : Byte) : Bool := decide (cap < declaredLength len)

/-- A BUFWR index is rejected: 0, or CAP or more (R140). -/
def badIndex (cap : Nat) (idx : Byte) : Bool := idx.toNat == 0 || decide (cap ≤ idx.toNat)

/-- The run has left the spec: the last accepted INIT's configuration fails CLOCK_OK (R243). -/
def State.outsideSpec (s : State) (ok : ClockOk) : Bool := s.cfgValid && !ok s.cfgDiv s.cfgPresc

end Sys2Proof.Machine
end

