-- ==== Sys2Proof/Machine/Ops.lean ====
section
/-! DEFINITION. The operations every meaning is made of, those that use CAP with it as their first argument (R50): the buffer's byte read and write (R60, R148), the outputs
(R10), the steps SendNext and AckDecide (R176, R178), the abort (the machine's exception entry, R175, R236) and the
ways back (R205, R237), the common shapes of an event step (R160) and of a command step (R200), and what the bus
controller does to its own state. -/

namespace Sys2Proof.Machine

/-- The three outcomes of a meaning. -/
abbrev Out := Host.Outcome State Fault Refusal

/-! ### The transfer buffer -/

/-- The byte of a written cell, or none where the written mark is false (R42). -/
def Memory.get? : Memory → Nat → Option Byte
  | [], _ => none
  | (a, v) :: m, i => if i = a then some v else Memory.get? m i

/-- Write a cell, keeping the indices strictly rising. -/
def Memory.put : Memory → Nat → Byte → Memory
  | [], i, v => [(i, v)]
  | (a, w) :: m, i, v =>
    if i < a then (i, v) :: (a, w) :: m
    else if i = a then (i, v) :: m
    else (a, w) :: Memory.put m i v

/-- The indices of a list rise strictly and the first is at least `lo`. -/
def Memory.risesFrom : Nat → Memory → Bool
  | _, [] => true
  | lo, (a, _) :: m => decide (lo ≤ a) && Memory.risesFrom (a + 1) m

/-- The buffer's canonical form. -/
def Memory.wf (m : Memory) : Bool := Memory.risesFrom 0 m

/-- Every listed index names a cell of a buffer of `cap` bytes (R60). -/
def Memory.within (cap : Nat) (m : Memory) : Bool := m.all fun c => decide (c.1 < cap)

/-- `BufRead(i)`: a written cell gives its byte, a never-written one a fresh draw (R148), an index of CAP or more
names no cell (R60). -/
def State.bufRead (cap : Nat) (s : State) (i : Nat) : Except Fault (Byte × State) :=
  if i < cap then
    match s.buf.get? i with
    | some v => .ok (v, s)
    | none => .ok (Config.freeByte s.draws, { s with draws := s.draws + 1 })
  else .error (.noSuchCell i)

/-- `BufWrite(i, v)`: the cell takes the byte and its written mark becomes true (R42). -/
def State.bufWrite (cap : Nat) (s : State) (i : Nat) (v : Byte) : Except Fault State :=
  if i < cap then .ok { s with buf := s.buf.put i v } else .error (.noSuchCell i)

/-! ### Outputs -/

/-- `emit A` (R10): append an action word to the list for the bus controller. -/
def State.emit (s : State) (a : Action) : State := { s with actions := s.actions ++ [a.word] }

/-- The SEND about to be emitted is marked for the bus controller: its byte is the SLA byte, or a data byte (R128 c, d;
log entry 10). -/
def State.markSend (s : State) (sla : Bool) : State :=
  { s with ctrl := { s.ctrl with sendMarks := s.ctrl.sendMarks ++ [sla] } }

/-- `respond r` (R10): the step's host response, kept in LASTRESP. -/
def State.respond (s : State) (r : Resp) : State := { s with lastResp := r, reply := some (.response r) }

/-- `emit REINIT` with the stored configuration (R103, R126). -/
def State.emitReinit (s : State) : State := s.emit (.reinit s.cfgDiv s.cfgPresc)

/-! ### Taking an exception and leaving it -/

/-- Abort(reason), the one error path (R175, R236): REINIT, CURSOR to 0, ACK_ARMED to 0, FAILED with the reason. -/
def State.abort (s : State) (reason : Result) : State :=
  { s.emitReinit with cursor := 0, ackArmed := false, state := .failed, result := reason }

/-- The held result is consumed (R205), one of the three ways out of FAILED (R237). -/
def State.retire (s : State) : State := { s with state := .idle, result := .none }

/-- A START is requested for a loaded transaction (R203, R204): another way out of FAILED. -/
def State.begin (s : State) : State :=
  { s with ackArmed := false, result := .none, state := .address }.emit .start

/-- The transaction ends well: STOP, COMPLETING, OK (R163, R164, R167). -/
def State.complete (s : State) : State := { s.emit .stop with state := .completing, result := .ok }

/-- StrayEvent (R173). -/
def State.strayEvent (s : State) : State := { s.emitReinit with stray := true, ackArmed := false }

/-! ### The transmit step and the ACK/NACK driver -/

/-- SendNext (R178). -/
def State.sendNext (cap : Nat) (s : State) : Except Fault State :=
  match s.bufRead cap s.cur with
  | .ok (b, t) => .ok { t.emit (.send b) with cursor := reg9 (s.cur + 1) }
  | .error f => .error f

/-- AckDecide (R176). -/
def State.ackDecide (s : State) : State :=
  if 1 < s.remaining then { s.emit .armAck with ackArmed := true }
  else { s.emit .armNack with ackArmed := false }

/-- SendNext, then STATE is `p`. -/
def State.sendThen (cap : Nat) (s : State) (p : Phase) : Out :=
  match s.sendNext cap with
  | .ok t => .next { t with state := p }
  | .error f => .fault f

/-- The start rule (R161, R162): the cursor goes to 0 and the SLA byte is sent. -/
def startRule (cap : Nat) (s : State) : Out :=
  (({ s with cursor := 0 } : State).markSend true).sendThen cap .address

/-- The transmit rule (R163, R164): the next byte, or STOP when all are sent. -/
def transmitRule (cap : Nat) (s : State) : Out :=
  if s.cur < s.len then (s.markSend false).sendThen cap .dataTx else .next s.complete

/-- The rule of AddrAckRx (R165). -/
def receiveStartRule (s : State) : Out := .next { s.ackDecide with state := .dataRx }

/-- The rule of DataAckRx (R166): store, advance, decide on the new cursor. -/
def receiveRule (cap : Nat) (data : Byte) (s : State) : Out :=
  match s.bufWrite cap s.cur data with
  | .ok t => .next ({ t with cursor := reg9 (s.cur + 1) } : State).ackDecide
  | .error f => .fault f

/-- The rule of DataNackRx (R167): store, fix the declared length, stop. -/
def receiveLastRule (cap : Nat) (data : Byte) (s : State) : Out :=
  match s.bufWrite cap s.cur data with
  | .ok t => .next ({ t with dlen := reg9 (s.cur + 1) } : State).complete
  | .error f => .fault f

/-- The rule of the five error categories (R168 to R172). -/
def abortRule (reason : Result) (s : State) : Out := .next (s.abort reason)

/-! ### The shape of an event step -/

/-- The bus controller reports an event (R49, R90): its event-pending flag rises, its status and data registers hold
what the event word shows, and a Start or RepeatedStart consumes the pending START request. What it was asked for is
answered (log entry 10). -/
def State.reported (s : State) (c : BusEvent) (status data : Byte) : State :=
  { s with ctrl := { s.ctrl with
      status := status, data := data, eventPending := true,
      startReq := s.ctrl.startReq && !(c == .start || c == .repeatedStart),
      asked := .answered } }

/-- Event dispatch (R160): stray when not ACTIVE (R173), a protocol violation when illegal (R174), else the rule. -/
def onEvent (c : BusEvent) (status data : Byte) (rule : State → Out) (s : State) : Out :=
  if !s.busy then .next (s.reported c status data).strayEvent
  else if !s.legal c then .next ((s.reported c status data).abort .unknownStatus)
  else rule (s.reported c status data)

/-! ### The shape of a command step -/

/-- The response of the first check that fails (R200). -/
def firstFailed : List (Bool × Resp) → Option Resp
  | [] => none
  | (bad, r) :: checks => if bad then some r else firstFailed checks

/-- A command's acceptance checks, then its rule; a rejected command only responds (R99, R200). -/
def onCommand (checks : List (Bool × Resp)) (rule : State → Out) (s : State) : Out :=
  match firstFailed checks with
  | some r => .next (s.respond r)
  | none => rule s

/-- The load step of WRITE and READ (R141, R142). -/
def State.load (cap : Nat) (s : State) (addr : BitVec 7) (len : Byte) (dir : Dir) : Except Fault State :=
  match s.bufWrite cap 0 (slaByte addr dir) with
  | .ok t => .ok { t with dlen := reg9 (declaredLength len), cursor := 0, dir := dir }
  | .error f => .error f

/-- WRITE and READ once accepted (R203, R204). -/
def startTransaction (cap : Nat) (addr : BitVec 7) (len : Byte) (dir : Dir) (s : State) : Out :=
  match s.load cap addr len dir with
  | .ok t => .next (t.begin.respond .accepted)
  | .error f => .fault f

/-! ### The bus controller -/

/-- The releasing actions clear the event-pending flag (R102, R127). -/
def Controller.release (c : Controller) : Controller := { c with eventPending := false }

/-- The controller takes a byte to send (R123): the byte goes to the data register, and the oldest mark says whether it
is the SLA byte or a data byte (R128 c, d; log entry 10). The spec does not say what SEND leaves in the status register
or in the fields it does not name: DESIGN CHOICE, they stay as they are (log entry 8). -/
def Controller.send (c : Controller) (b : Byte) : Controller :=
  { c.release with
    data := b, sendMarks := c.sendMarks.tail,
    asked := if c.sendMarks.headD false then .slaByte (slaDir b) else .dataByte }

/-- The controller arms an acknowledge level for the next byte (R124). The status and data registers and the fields that
R124 does not name stay as they are: DESIGN CHOICE (log entry 8). -/
def Controller.arm (c : Controller) (level : AckLevel) : Controller :=
  { c.release with ackReq := some level, asked := .receive level }

/-- INIT (R121): program the clock, clear the pending start, stop and acknowledge requests, leave no event pending. The
spec does not say what INIT leaves in the status and data registers: DESIGN CHOICE, they stay as they are (log
entry 8). -/
def Controller.init (c : Controller) (div : Byte) (presc : BitVec 2) : Controller :=
  { c with
    clkDiv := div, clkPresc := presc, startReq := false, stopReq := false, ackReq := none, eventPending := false,
    asked := .silence }

end Sys2Proof.Machine
end

