-- ==== Sys2Proof/Machine/Actions.lean ====
section
/-! DEFINITION. The bus controller taking one action word: the effect on the controller that R121 to R126 give each
kind, on the controller's state only (log entries 2, 7, 8, 10). A field of the controller that a kind's rule does not
name, its status and data registers among them, stays as it is: DESIGN CHOICE (log entry 8). What then happens on the wire
is out of scope (R4). -/

namespace Sys2Proof.Machine

/-- INIT (R121). The controller's status and data registers stay as they are: DESIGN CHOICE (log entry 8). -/
def execActInit (div : Byte) (presc : BitVec 2) (s : State) : Out :=
  .next { s with ctrl := s.ctrl.init div presc }

/-- START (R122): a start condition is requested. The status and data registers stay: DESIGN CHOICE (log entry 8). -/
def execActStart (s : State) : Out :=
  .next { s with ctrl := { s.ctrl with startReq := true, asked := .start } }

/-- SEND (R123): the byte goes to the data register and the pending event is released. The status register stays: DESIGN
CHOICE (log entry 8). -/
def execActSend (b : Byte) (s : State) : Out := .next { s with ctrl := s.ctrl.send b }

/-- ARM_ACK (R124): the pending event is released and ACK armed for the next byte. The status and data registers stay:
DESIGN CHOICE (log entry 8). -/
def execActArmAck (s : State) : Out := .next { s with ctrl := s.ctrl.arm .ack }

/-- ARM_NACK (R124): the pending event is released and NACK armed for the next byte. The status and data registers stay:
DESIGN CHOICE (log entry 8). -/
def execActArmNack (s : State) : Out := .next { s with ctrl := s.ctrl.arm .nack }

/-- STOP (R125): the pending event is released and a stop condition requested. The status and data registers stay: DESIGN
CHOICE (log entry 8). -/
def execActStop (s : State) : Out :=
  .next { s with ctrl := { s.ctrl.release with stopReq := true, asked := .silence } }

/-- REINIT (R126): as INIT, and the register state is cleared, to values that the spec does not state for the status
and data registers: they are two free draws (log entry 8). -/
def execActReinit (div : Byte) (presc : BitVec 2) (s : State) : Out :=
  .next { s with
    ctrl := { s.ctrl.init div presc with
      status := Config.freeByte s.draws, data := Config.freeByte (s.draws + 1) },
    draws := s.draws + 2 }

end Sys2Proof.Machine
end

