-- ==== Sys2Proof/Machine/Commands.lean ====
section
/-! DEFINITION. The host commands (43_transaction_api.md, 41_transfer_buffer.md) and the reserved command words
(R98). Each meaning's checks stand in the order of R200. A meaning that uses CAP is written for any CAP (its name ends in
`In`), and `exec` runs it with this hardware's. -/

namespace Sys2Proof.Machine

/-- NOP (R201): accepted in every state. -/
def execNop (s : State) : Out := .next (s.respond .accepted)

/-- INIT (R202): accepted in every state. CLOCK_OK is not checked here: the sequencer itself performs no check
(R243), and `fetch` refuses every later step of such a run. -/
def execInit (div : Byte) (presc : BitVec 2) (s : State) : Out :=
  .next ((({ s with
    cfgDiv := div, cfgPresc := presc, cfgValid := true, state := .idle, result := .none, cursor := 0, dlen := 0,
    dir := .write, ackArmed := false, stray := false } : State).emit (.init div presc)).respond .accepted)

/-- WRITE (R203), for any CAP. -/
def execWriteIn (cap : Nat) (addr : BitVec 7) (len : Byte) (s : State) : Out :=
  onCommand [(s.busy, .rejBusy), (!s.cfgValid, .rejNotInit), (overflows cap len, .rejOverflow)]
    (startTransaction cap addr len .write) s

/-- WRITE (R203). -/
def execWrite (addr : BitVec 7) (len : Byte) (s : State) : Out := execWriteIn Config.cap addr len s

/-- READ (R204), for any CAP. -/
def execReadIn (cap : Nat) (addr : BitVec 7) (len : Byte) (s : State) : Out :=
  onCommand
    [(s.busy, .rejBusy), (!s.cfgValid, .rejNotInit), (overflows cap len, .rejOverflow), (len.toNat == 0, .rejZeroLen)]
    (startTransaction cap addr len .read) s

/-- READ (R204). -/
def execRead (addr : BitVec 7) (len : Byte) (s : State) : Out := execReadIn Config.cap addr len s

/-- RETIRE (R205). -/
def execRetire (s : State) : Out :=
  onCommand [(s.busy, .rejBusy)] (fun s => .next (s.retire.respond .accepted)) s

/-- BUFWR (R140), for any CAP. -/
def execBufwrIn (cap : Nat) (idx data : Byte) (s : State) : Out :=
  onCommand [(s.busy, .rejBusy), (badIndex cap idx, .rejIndex)]
    (fun s =>
      match s.bufWrite cap idx.toNat data with
      | .ok t => .next (t.respond .accepted)
      | .error f => .fault f) s

/-- BUFWR (R140). -/
def execBufwr (idx data : Byte) (s : State) : Out := execBufwrIn Config.cap idx data s

/-- A reserved command word with bit 31 clear (R98, R200): REJ_RESERVED and nothing else, whatever the word. -/
def execReservedCmd (_w : CommandWord) (s : State) : Out := .next (s.respond .rejReserved)

/-- A reserved command word with bit 31 set (R98, R200). -/
def execReservedCmdHi (_w : CommandWord) (s : State) : Out := .next (s.respond .rejReserved)

end Sys2Proof.Machine
end

