-- ==== Sys2Proof/Machine/Events.lean ====
section
/-! DEFINITION. The twelve event categories and TIMEOUT (42_protocol_state_machine.md). Only DataAckRx and
DataNackRx read the data byte as an operand (R94). A meaning that uses CAP is written for any CAP (its name ends in `In`),
and `exec` runs it with this hardware's. -/

namespace Sys2Proof.Machine

/-- Start (R161), for any CAP. -/
def execEvStartIn (cap : Nat) (status data : Byte) (s : State) : Out :=
  onEvent .start status data (startRule cap) s

/-- Start (R161). -/
def execEvStart (status data : Byte) (s : State) : Out := execEvStartIn Config.cap status data s

/-- RepeatedStart (R162): the same rule as Start, for any CAP. -/
def execEvRepeatedStartIn (cap : Nat) (status data : Byte) (s : State) : Out :=
  onEvent .repeatedStart status data (startRule cap) s

/-- RepeatedStart (R162): the same rule as Start. -/
def execEvRepeatedStart (status data : Byte) (s : State) : Out := execEvRepeatedStartIn Config.cap status data s

/-- AddrAckTx (R163), for any CAP. -/
def execEvAddrAckTxIn (cap : Nat) (status data : Byte) (s : State) : Out :=
  onEvent .addrAckTx status data (transmitRule cap) s

/-- AddrAckTx (R163). -/
def execEvAddrAckTx (status data : Byte) (s : State) : Out := execEvAddrAckTxIn Config.cap status data s

/-- AddrNackTx (R168). -/
def execEvAddrNackTx (status data : Byte) (s : State) : Out :=
  onEvent .addrNackTx status data (abortRule .addressNack) s

/-- DataAckTx (R164), for any CAP. -/
def execEvDataAckTxIn (cap : Nat) (status data : Byte) (s : State) : Out :=
  onEvent .dataAckTx status data (transmitRule cap) s

/-- DataAckTx (R164). -/
def execEvDataAckTx (status data : Byte) (s : State) : Out := execEvDataAckTxIn Config.cap status data s

/-- DataNackTx (R170). -/
def execEvDataNackTx (status data : Byte) (s : State) : Out :=
  onEvent .dataNackTx status data (abortRule .dataNack) s

/-- ArbitrationLost (R171). -/
def execEvArbitrationLost (status data : Byte) (s : State) : Out :=
  onEvent .arbitrationLost status data (abortRule .arbitrationLost) s

/-- AddrAckRx (R165). -/
def execEvAddrAckRx (status data : Byte) (s : State) : Out := onEvent .addrAckRx status data receiveStartRule s

/-- AddrNackRx (R169). -/
def execEvAddrNackRx (status data : Byte) (s : State) : Out :=
  onEvent .addrNackRx status data (abortRule .addressNack) s

/-- DataAckRx (R166), for any CAP. -/
def execEvDataAckRxIn (cap : Nat) (status data : Byte) (s : State) : Out :=
  onEvent .dataAckRx status data (receiveRule cap data) s

/-- DataAckRx (R166). -/
def execEvDataAckRx (status data : Byte) (s : State) : Out := execEvDataAckRxIn Config.cap status data s

/-- DataNackRx (R167), for any CAP. -/
def execEvDataNackRxIn (cap : Nat) (status data : Byte) (s : State) : Out :=
  onEvent .dataNackRx status data (receiveLastRule cap data) s

/-- DataNackRx (R167). -/
def execEvDataNackRx (status data : Byte) (s : State) : Out := execEvDataNackRxIn Config.cap status data s

/-- Unknown (R172). -/
def execEvUnknown (status data : Byte) (s : State) : Out :=
  onEvent .unknown status data (abortRule .unknownStatus) s

/-- TIMEOUT (R177): the abort while BUSY, no effect otherwise. -/
def execTimeout (s : State) : Out := if s.busy then .next (s.abort .timeout) else .next s

end Sys2Proof.Machine
end

