-- ==== Sys2Proof/Machine/Dispatch.lean ====
section
/-! DEFINITION. One arm per constructor of Instr. -/

namespace Sys2Proof.Machine

def exec (i : Instr) (s : State) : Host.Outcome State Fault Refusal :=
  match i with
  -- host commands
  | .nop => Sys2Proof.Machine.execNop s
  | .init div presc => Sys2Proof.Machine.execInit div presc s
  | .write addr len => Sys2Proof.Machine.execWrite addr len s
  | .read addr len => Sys2Proof.Machine.execRead addr len s
  | .retire => Sys2Proof.Machine.execRetire s
  | .bufwr idx data => Sys2Proof.Machine.execBufwr idx data s
  | .reservedCmd w => Sys2Proof.Machine.execReservedCmd w s
  | .reservedCmdHi w => Sys2Proof.Machine.execReservedCmdHi w s
  -- events
  | .evStart status data => Sys2Proof.Machine.execEvStart status data s
  | .evRepeatedStart status data => Sys2Proof.Machine.execEvRepeatedStart status data s
  | .evAddrAckTx status data => Sys2Proof.Machine.execEvAddrAckTx status data s
  | .evAddrNackTx status data => Sys2Proof.Machine.execEvAddrNackTx status data s
  | .evDataAckTx status data => Sys2Proof.Machine.execEvDataAckTx status data s
  | .evDataNackTx status data => Sys2Proof.Machine.execEvDataNackTx status data s
  | .evArbitrationLost status data => Sys2Proof.Machine.execEvArbitrationLost status data s
  | .evAddrAckRx status data => Sys2Proof.Machine.execEvAddrAckRx status data s
  | .evAddrNackRx status data => Sys2Proof.Machine.execEvAddrNackRx status data s
  | .evDataAckRx status data => Sys2Proof.Machine.execEvDataAckRx status data s
  | .evDataNackRx status data => Sys2Proof.Machine.execEvDataNackRx status data s
  | .evUnknown status data => Sys2Proof.Machine.execEvUnknown status data s
  | .timeout => Sys2Proof.Machine.execTimeout s
  -- the bus controller's side
  | .actInit div presc => Sys2Proof.Machine.execActInit div presc s
  | .actStart => Sys2Proof.Machine.execActStart s
  | .actSend b => Sys2Proof.Machine.execActSend b s
  | .actArmAck => Sys2Proof.Machine.execActArmAck s
  | .actArmNack => Sys2Proof.Machine.execActArmNack s
  | .actStop => Sys2Proof.Machine.execActStop s
  | .actReinit div presc => Sys2Proof.Machine.execActReinit div presc s

end Sys2Proof.Machine
end

