-- ==== Sys2Proof/Machine/Fetch.lean ====
section
/-! DEFINITION. Which agent moves next, and with what (R5, R6, R74, R120). There is no program counter (R46): the
next input is the head of `turns`. -/

namespace Sys2Proof.Machine

/-- What a step is about to do. -/
inductive Fetched where
  /-- No agent has a turn: the sequencer waits (R46, R244). -/
  | idle
  /-- An agent's turn with nothing to do: the bus controller's, with no action word left. -/
  | nothing (s : State)
  /-- Run a decoded input or action. -/
  | run (i : Instr) (s : State)
  /-- A host read. -/
  | read (a : ReadAddr) (s : State)
  /-- The step has no meaning. -/
  | stop (r : Refusal)
  deriving DecidableEq, Repr

/-- A sequencer step on a decoded input begins with an empty host output port: only a command or a read gives one
(R6). -/
def State.take (s : State) (rest : List Turn) : State := { s with turns := rest, reply := none }

/-- A word of a port, decoded. -/
def fetchWord (p : StatusParams) (w : PortWord) (s : State) : Fetched :=
  match decodeWith p w with
  | .ok i => .run i s
  | .error (.notAnAction a) => .stop (.neverEmitted a)

/-- The turn at hand. The bus controller applies the action words in list order (R120). -/
def fetchTurn (p : StatusParams) (u : Turn) (rest : List Turn) (s : State) : Fetched :=
  match u with
  | .command w => fetchWord p (.command w) (s.take rest)
  | .event w => fetchWord p (.event w) (s.take rest)
  | .timeout => fetchWord p .timeout (s.take rest)
  | .read a => .read a (s.take rest)
  | .controller =>
    match s.actions with
    | [] => .nothing { s with turns := rest }
    | a :: as => fetchWord p (.action a) { s with turns := rest, actions := as }

/-- What the next step does, under any parameters. After an INIT whose configuration fails CLOCK_OK no step has a meaning (R243). -/
def fetch (p : Params) (s : State) : Fetched :=
  if s.outsideSpec p.clockOk then .stop .clockNotOk
  else
    match s.turns with
    | [] => .idle
    | u :: rest => fetchTurn p.status u rest s

/-- The turn that a port word is. The action port is the sequencer's output, so no turn brings a word to it. -/
def turnOf : PortWord → Option Turn
  | .command w => some (.command w)
  | .event w => some (.event w)
  | .timeout => some .timeout
  | .action _ => none

end Sys2Proof.Machine
end

