-- ==== Sys2Proof/Machine/HostRead.lean ====
section
/-! DEFINITION. The host read port (R62 to R65): a step with no effect on a register or a buffer cell. -/

namespace Sys2Proof.Machine

/-- The step's read word. -/
def State.answer (s : State) (w : ReadWord) : State := { s with reply := some (.word w) }

/-- A host read (R63), for any CAP: STATUS, CFG, RESP and the buffer window; every other address reads 0 (R64). -/
def execHostReadIn (cap : Nat) (a : ReadAddr) (s : State) : Out :=
  if a.toNat = 0x0000 then .next (s.answer s.statusWord)
  else if a.toNat = 0x0001 then .next (s.answer s.cfgWord)
  else if a.toNat = 0x0002 then .next (s.answer s.respWord)
  else if 0x0100 ≤ a.toNat ∧ a.toNat < 0x0100 + cap then
    match s.bufRead cap (a.toNat - 0x0100) with
    | .ok (b, t) => .next (t.answer (b.setWidth 32))
    | .error f => .fault f
  else .next (s.answer 0)

/-- A host read (R63) of this hardware. -/
def execHostRead (a : ReadAddr) (s : State) : Out := execHostReadIn Config.cap a s

end Sys2Proof.Machine
end

