-- ==== Sys2Proof/Machine/Parametric.lean ====
section
/-! DEFINITION. The meanings with the parameters of R7 as an argument (R50): the same meanings as `exec` runs, each that
uses CAP taking it from the parameters. `exec` is the case of this hardware's own parameters. -/

namespace Sys2Proof.Machine

/-- The meaning of an input under any parameters. STATUS_MASK and STATUS_CODE act in the decoder, CLOCK_OK in `fetch`, and
T_TIMEOUT nowhere, so CAP is the one the meanings use. -/
def execWith (p : Params) (i : Instr) (s : State) : Out :=
  match i with
  -- host commands
  | .nop => execNop s
  | .init div presc => execInit div presc s
  | .write addr len => execWriteIn p.cap addr len s
  | .read addr len => execReadIn p.cap addr len s
  | .retire => execRetire s
  | .bufwr idx data => execBufwrIn p.cap idx data s
  | .reservedCmd w => execReservedCmd w s
  | .reservedCmdHi w => execReservedCmdHi w s
  -- events
  | .evStart status data => execEvStartIn p.cap status data s
  | .evRepeatedStart status data => execEvRepeatedStartIn p.cap status data s
  | .evAddrAckTx status data => execEvAddrAckTxIn p.cap status data s
  | .evAddrNackTx status data => execEvAddrNackTx status data s
  | .evDataAckTx status data => execEvDataAckTxIn p.cap status data s
  | .evDataNackTx status data => execEvDataNackTx status data s
  | .evArbitrationLost status data => execEvArbitrationLost status data s
  | .evAddrAckRx status data => execEvAddrAckRx status data s
  | .evAddrNackRx status data => execEvAddrNackRx status data s
  | .evDataAckRx status data => execEvDataAckRxIn p.cap status data s
  | .evDataNackRx status data => execEvDataNackRxIn p.cap status data s
  | .evUnknown status data => execEvUnknown status data s
  | .timeout => execTimeout s
  -- the bus controller's side
  | .actInit div presc => execActInit div presc s
  | .actStart => execActStart s
  | .actSend b => execActSend b s
  | .actArmAck => execActArmAck s
  | .actArmNack => execActArmNack s
  | .actStop => execActStop s
  | .actReinit div presc => execActReinit div presc s

end Sys2Proof.Machine
end

