-- ==== Sys2Proof/Machine/Step.lean ====
section
/-! DEFINITION. One atomic step (R6). -/

namespace Sys2Proof.Machine

/-- Do what was fetched, with these meanings of an input and of a host read. With no turn offered the state stays as it
is: no transition is taken without an input (R46). -/
def perform (run : Instr → State → Out) (read : ReadAddr → State → Out) (s : State) : Fetched → Out
  | .idle => .next s
  | .nothing t => .next t
  | .run i t => run i t
  | .read a t => read a t
  | .stop r => .refused r

/-- One step of a machine with the parameters `p` (R7, R50): the next turn's input is decoded and run. -/
def stepWith (p : Params) (s : State) : Host.Outcome State Fault Refusal :=
  perform (execWith p) (execHostReadIn p.cap) s (fetch p s)

/-- One step of the machine: the step with this model's own parameters, run through `exec`. -/
def step (s : State) : Host.Outcome State Fault Refusal :=
  perform exec execHostRead s (fetch Config.params s)

/-- `s` with the table's word offered as the very next input on its own port (log entry 9). -/
def State.withFetchWord (s : State) (nbits w : Nat) : State :=
  match (tablePort nbits w).bind turnOf with
  | some u => { s with turns := u :: s.turns }
  | none => s

end Sys2Proof.Machine
end

