-- ==== Sys2Proof/WellFormed.lean ====
section
/-! DEFINITION. Which terms of `Instr` are inputs: an event's status code must decode to the event's own category
(R92), under the status parameters, and a reserved command must carry a reserved word of its own row (R98). -/

namespace Sys2Proof

/-- An event of category `c` carries a status code of that category. -/
def StatusParams.statusIs (p : StatusParams) (c : BusEvent) (status : Byte) : Bool := p.category status == c

/-- Well-formedness under any status parameters, one line per constructor. -/
def Instr.wfWith (p : StatusParams) : Instr → Bool
  | .nop => true
  | .init _ _ => true
  | .write _ _ => true
  | .read _ _ => true
  | .retire => true
  | .bufwr _ _ => true
  | .reservedCmd w => isReserved w && !w.msb
  | .reservedCmdHi w => isReserved w && w.msb
  | .evStart status _ => p.statusIs .start status
  | .evRepeatedStart status _ => p.statusIs .repeatedStart status
  | .evAddrAckTx status _ => p.statusIs .addrAckTx status
  | .evAddrNackTx status _ => p.statusIs .addrNackTx status
  | .evDataAckTx status _ => p.statusIs .dataAckTx status
  | .evDataNackTx status _ => p.statusIs .dataNackTx status
  | .evArbitrationLost status _ => p.statusIs .arbitrationLost status
  | .evAddrAckRx status _ => p.statusIs .addrAckRx status
  | .evAddrNackRx status _ => p.statusIs .addrNackRx status
  | .evDataAckRx status _ => p.statusIs .dataAckRx status
  | .evDataNackRx status _ => p.statusIs .dataNackRx status
  | .evUnknown status _ => p.statusIs .unknown status
  | .timeout => true
  | .actInit _ _ => true
  | .actStart => true
  | .actSend _ => true
  | .actArmAck => true
  | .actArmNack => true
  | .actStop => true
  | .actReinit _ _ => true

/-- Well-formedness under the parameters of this model's own step. -/
def Instr.wf (i : Instr) : Bool := i.wfWith Config.status

end Sys2Proof
end

