-- ==== Sys2Proof/Safety.lean ====
section
/-! DEFINITION. What counts as a safe state and a safe run, in the terms the statements use: the invariants of R32,
R41, R144 and R181, the machine fed a list of turns, and the controller contract of R128. -/

namespace Sys2Proof.Machine

/-! ### The invariant -/

/-- `CURSOR ≤ DLEN ≤ CAP` (R41). -/
def State.cursorBounded (cap : Nat) (s : State) : Prop := s.cur ≤ s.len ∧ s.len ≤ cap

/-- STATE and RESULT agree (R32). -/
def State.resultAgrees (s : State) : Prop :=
  match s.state with
  | .idle => s.result = .none
  | .address => s.result = .none
  | .dataTx => s.result = .none
  | .dataRx => s.result = .none
  | .completing => s.result = .ok
  | .failed => s.result ≠ .none ∧ s.result ≠ .ok

/-- The phase invariants (R181), with what R144 and R166 say of COMPLETING and of the armed level. -/
def State.phaseOk (s : State) : Prop :=
  match s.state with
  | .idle => True
  | .address => s.cur ≤ 1 ∧ 1 ≤ s.len ∧ (s.dir = .read → 2 ≤ s.len)
  | .dataTx => s.dir = .write ∧ 2 ≤ s.cur ∧ s.cur ≤ s.len
  | .dataRx => s.dir = .read ∧ 1 ≤ s.cur ∧ s.cur + 1 ≤ s.len ∧ (s.ackArmed = true ↔ 2 ≤ s.remaining)
  | .completing => (s.dir = .write → s.cur = s.len) ∧ (s.dir = .read → 1 ≤ s.cur ∧ s.cur + 1 = s.len)
  | .failed => s.cur = 0

/-- The cell `i` has been written since reset (R42). -/
def State.written (s : State) (i : Nat) : Bool := (s.buf.get? i).isSome

/-- The SLA byte of a transaction in flight stands in BUF[0], with DIR in its bit 0 (R42, R104). -/
def State.slaPresent (s : State) : Prop :=
  s.busy = true → ∃ addr, s.buf.get? 0 = some (slaByte addr s.dir)

/-- Every byte received so far has been stored: 1 to CURSOR − 1 in DATA_RX, and 1 to CURSOR, the snapshot, after a
read that ended well (R144, R146). -/
def State.receivedStored (s : State) : Prop :=
  (s.state = .dataRx → ∀ i, 1 ≤ i → i < s.cur → s.written i = true) ∧
  (s.state = .completing → s.dir = .read → ∀ i, 1 ≤ i → i ≤ s.cur → s.written i = true)

/-- The word is a SEND: its kind is 3 (R101, R102). -/
def isSendWord (w : ActionWord) : Bool := w >>> 12 == 3

/-- The invariant of a machine with a buffer of `cap` bytes. What is not a rule's own words is DEDUCED (log entry 15) or
the model's representation (log entries 10, 11 and 13). -/
structure State.Inv (cap : Nat) (s : State) : Prop where
  /-- The buffer keeps its canonical form (log entry 11). -/
  memory : s.buf.wf = true
  /-- Only cells are listed (R60). -/
  cells : s.buf.within cap = true
  /-- R41. -/
  bounds : s.cursorBounded cap
  /-- R32. -/
  agree : s.resultAgrees
  /-- R181; the armed level is log entry 15's. -/
  phase : s.phaseOk
  /-- R42, R104 (log entry 15). -/
  sla : s.slaPresent
  /-- R144, R146 (log entry 15). -/
  received : s.receivedStored
  /-- No transaction is in flight before the first INIT (R126, R200, R262; log entry 15). -/
  configured : s.busy = true → s.cfgValid = true
  /-- Every word in the action queue (log entry 13) is an action (R102). -/
  actionsOk : ∀ w ∈ s.actions, ∃ a : Action, w = a.word
  /-- Each SEND in the action queue has its mark (log entry 10). -/
  marksOk : s.ctrl.sendMarks.length = s.actions.countP isSendWord

/-! ### Runs -/

/-- The machine with the parameters `p`. -/
def coreWith (p : Params) : Host.Core :=
  { State := State, Fault := Fault, Refusal := Refusal, step := stepWith p, reset := State.reset }

/-- The machine given these turns, one step for each. -/
def State.feed (p : Params) (s : State) (us : List Turn) : Out :=
  Host.Core.run (coreWith p) us.length { s with turns := us }

/-- The sequencer's part of an outcome: the bus controller's state, which is environment (R49), left out. -/
def seqPart : Out → Out
  | .next t => .next { t with ctrl := Controller.reset }
  | .fault f => .fault f
  | .refused r => .refused r

/-- The buffer index that an input stores to in a state, if it stores (R61, the rows that write). -/
def storeIndex (i : Instr) (s : State) : Option Nat :=
  match i with
  | .write _ _ => some 0
  | .read _ _ => some 0
  | .bufwr idx _ => some idx.toNat
  | .evDataAckRx _ _ => some s.cur
  | .evDataNackRx _ _ => some s.cur
  | .nop => none
  | .init _ _ => none
  | .retire => none
  | .reservedCmd _ => none
  | .reservedCmdHi _ => none
  | .evStart _ _ => none
  | .evRepeatedStart _ _ => none
  | .evAddrAckTx _ _ => none
  | .evAddrNackTx _ _ => none
  | .evDataAckTx _ _ => none
  | .evDataNackTx _ _ => none
  | .evArbitrationLost _ _ => none
  | .evAddrAckRx _ _ => none
  | .evAddrNackRx _ _ => none
  | .evUnknown _ _ => none
  | .timeout => none
  | .actInit _ _ => none
  | .actStart => none
  | .actSend _ => none
  | .actArmAck => none
  | .actArmNack => none
  | .actStop => none
  | .actReinit _ _ => none

/-- The releasing actions of R127. -/
def releases : Action → Bool
  | .init _ _ => false
  | .start => false
  | .send _ => true
  | .armAck => true
  | .armNack => true
  | .stop => true
  | .reinit _ _ => true

/-- R128 (a): the event reported last is released, so the controller may report now. -/
def State.mayReport (s : State) : Bool := !s.ctrl.eventPending

/-- R128 (b) to (f): this category answers what the controller was last asked for. No clause speaks of the time before it
has taken its first word, and R262 leaves its state open there, so any may come then. -/
def Controller.mayAnswer (k : Controller) (c : BusEvent) : Bool :=
  match k.asked with
  | .nothingYet => true
  | .start => k.startReq && [.start, .repeatedStart, .arbitrationLost].contains c
  | .slaByte .write => [.addrAckTx, .addrNackTx, .arbitrationLost].contains c
  | .slaByte .read => [.addrAckRx, .addrNackRx, .arbitrationLost].contains c
  | .dataByte => [.dataAckTx, .dataNackTx, .arbitrationLost].contains c
  | .receive .ack => [.dataAckRx, .arbitrationLost].contains c
  | .receive .nack => [.dataNackRx, .arbitrationLost].contains c
  | .silence => false
  | .answered => false

/-- The events that a controller keeping the contract of R128 may report: an answer to the last word it took, whatever
words are still queued, or at any point instead a code that decodes to Unknown (log entry 10). -/
def State.contractAllows (s : State) (c : BusEvent) : Bool :=
  s.mayReport && (c == .unknown || s.ctrl.mayAnswer c)

/-- The controller has taken every word, its last event is released, and it was last asked for what the sequencer's state
waits for. -/
def State.inStep (s : State) : Prop :=
  s.actions = [] ∧ s.ctrl.eventPending = false ∧
    match s.state with
    | .idle => s.ctrl.asked = .silence ∨ s.ctrl.asked = .nothingYet
    | .address =>
      if s.cur = 0 then s.ctrl.asked = .start ∧ s.ctrl.startReq = true
      else s.ctrl.asked = .slaByte s.dir
    | .dataTx => s.ctrl.asked = .dataByte
    | .dataRx => s.ctrl.asked = .receive (if s.ackArmed then .ack else .nack)
    | .completing => s.ctrl.asked = .silence
    | .failed => s.ctrl.asked = .silence

end Sys2Proof.Machine

namespace Sys2Proof

/-- The instruction arrives on the host's command port. -/
def Instr.isCommand (i : Instr) : Bool :=
  match encode i with
  | .command _ => true
  | .event _ => false
  | .timeout => false
  | .action _ => false

/-- The instruction arrives on the event port. -/
def Instr.isEvent (i : Instr) : Bool :=
  match encode i with
  | .command _ => false
  | .event _ => true
  | .timeout => false
  | .action _ => false

/-- The instruction is an action word that the bus controller takes. -/
def Instr.isAction (i : Instr) : Bool :=
  match encode i with
  | .command _ => false
  | .event _ => false
  | .timeout => false
  | .action _ => true

end Sys2Proof
end

