-- ==== Sys2Proof/Certificates/Slice0/Obligations.lean ====
section
/-! DEFINITION. The statements for the provers. Each says which rule of spec/ it formalises; "model's choice" names
the log entry (notes/assumptions/) where a clause rests on one. -/

open Sys2Proof Sys2Proof.Machine

/-! ### Reset, decoding, the step -/

/-- R260: every register at its reset value, every cell unwritten with an unspecified content (a free draw), BUSY and
DONE 0, no action and no response. -/
def Obligations.ResetLeavesEveryRegisterAtItsValue : Prop :=
  State.reset.state = .idle ∧ State.reset.result = .none ∧ State.reset.cursor = 0 ∧ State.reset.dlen = 0 ∧
  State.reset.dir = .write ∧ State.reset.ackArmed = false ∧ State.reset.cfgDiv = 0 ∧ State.reset.cfgPresc = 0 ∧
  State.reset.cfgValid = false ∧ State.reset.stray = false ∧ State.reset.lastResp = .accepted ∧
  State.reset.busy = false ∧ State.reset.done = false ∧ State.reset.actions = [] ∧ State.reset.reply = none ∧
  (∀ i, State.reset.written i = false) ∧
  ∀ i, i < Config.cap → State.reset.bufRead Config.cap i =
    .ok (Config.freeByte State.reset.draws, { State.reset with draws := State.reset.draws + 1 })

/-- One word for every row of the opcode table, laid out as R97, R101 and R103 and the default codes of R93 give it, and a
16-bit word that is no action (the codes are PRESUMED, log entry 3; the port of a table word is the model's choice, log
entry 9, by which a row of the action port is decoded there). -/
def Obligations.TableWordsDecodeToTheirRow : Prop :=
  decodeTableWord 32 0x00000000 = some .nop ∧
  decodeTableWord 32 0x10000120 = some (.init 0x20 1) ∧
  decodeTableWord 32 0x2050007F = some (.write 0x50 127) ∧
  decodeTableWord 32 0x30500003 = some (.read 0x50 3) ∧
  decodeTableWord 32 0x40000000 = some .retire ∧
  decodeTableWord 32 0x500001AA = some (.bufwr 1 0xAA) ∧
  decodeTableWord 32 0x20D00002 = some (.reservedCmd 0x20D00002) ∧
  decodeTableWord 32 0xF0000000 = some (.reservedCmdHi 0xF0000000) ∧
  decodeTableWord 16 0x095A = some (.evStart 0x09 0x5A) ∧
  decodeTableWord 16 0x105A = some (.evRepeatedStart 0x10 0x5A) ∧
  decodeTableWord 16 0x1A5A = some (.evAddrAckTx 0x1A 0x5A) ∧
  decodeTableWord 16 0x205A = some (.evAddrNackTx 0x20 0x5A) ∧
  decodeTableWord 16 0x2F5A = some (.evDataAckTx 0x2F 0x5A) ∧
  decodeTableWord 16 0x305A = some (.evDataNackTx 0x30 0x5A) ∧
  decodeTableWord 16 0x3C5A = some (.evArbitrationLost 0x3C 0x5A) ∧
  decodeTableWord 16 0x405A = some (.evAddrAckRx 0x40 0x5A) ∧
  decodeTableWord 16 0x485A = some (.evAddrNackRx 0x48 0x5A) ∧
  decodeTableWord 16 0x5011 = some (.evDataAckRx 0x50 0x11) ∧
  decodeTableWord 16 0x5833 = some (.evDataNackRx 0x58 0x33) ∧
  decodeTableWord 16 0x605A = some (.evUnknown 0x60 0x5A) ∧
  decodeTableWord 0 0 = some .timeout ∧
  decode (.action 0x1120) = .ok (.actInit 0x20 1) ∧
  decode (.action 0x2000) = .ok .actStart ∧
  decode (.action 0x30AA) = .ok (.actSend 0xAA) ∧
  decode (.action 0x4000) = .ok .actArmAck ∧
  decode (.action 0x5000) = .ok .actArmNack ∧
  decode (.action 0x6000) = .ok .actStop ∧
  decode (.action 0x7048) = .ok (.actReinit 0x48 0) ∧
  decode (.action 0x2400) = .error (.notAnAction 0x2400)

/-- No bit of an encoding is dropped: under every status parameters, decoding the word of any well-formed input or action
gives it back. -/
def Obligations.DecodeOfEncodeIsTheInstruction : Prop :=
  ∀ (p : StatusParams) (i : Instr), i.wfWith p = true → decodeWith p (encode i) = .ok i

/-- Each word has one meaning: under every status parameters, what a port word decodes to is well-formed and is encoded by
that word alone. -/
def Obligations.EncodeOfDecodeIsTheWord : Prop :=
  ∀ (p : StatusParams) (w : PortWord) (i : Instr), decodeWith p w = .ok i → i.wfWith p = true ∧ encode i = w

/-- R92, for every parameter set that R8 allows: the category is the unique named one whose code is the masked
status, and Unknown where there is none. -/
def Obligations.CategoryIsTheUniqueCodeOrUnknown : Prop :=
  ∀ p : StatusParams, p.Valid → ∀ status : Byte,
    (∀ c v, p.code c = some v → (p.category status = c ↔ status &&& p.mask = v)) ∧
    (p.category status = .unknown ↔ ∀ c, p.code c ≠ some (status &&& p.mask))

/-- R91, for every parameter set: only the masked code decides which row of the table an event is. -/
def Obligations.UnmaskedStatusBitsNeverChangeTheCategory : Prop :=
  ∀ (p : StatusParams) (st st' : Byte), st &&& p.mask = st' &&& p.mask → p.category st = p.category st'

/-- The model's own parameters (the codes PRESUMED, log entry 3, and CAP DEDUCED, log entry 14) meet the ranges of R7 and
the constraints of R8. -/
def Obligations.DefaultParametersAreValid : Prop := Config.params.Valid

/-- R98: which words are reserved, by the bits of R97; which of the table's two reserved rows such a word is; and that
a reserved word is rejected with REJ_RESERVED, in every state, with only LASTRESP and the step's response changed. -/
def Obligations.ReservedWordsAreRejected : Prop :=
  ∀ w : CommandWord,
    (isReserved w = true ↔
      (6 ≤ (w >>> 28).toNat ∨
        ((w >>> 28 = 0 ∨ w >>> 28 = 4) ∧ w &&& 0x0FFFFFFF ≠ 0) ∨
        (w >>> 28 = 1 ∧ w &&& 0x0FFFFC00 ≠ 0) ∨
        ((w >>> 28 = 2 ∨ w >>> 28 = 3) ∧ w &&& 0x0F80FF00 ≠ 0) ∨
        (w >>> 28 = 5 ∧ w &&& 0x0FFF0000 ≠ 0))) ∧
    (isReserved w = true → decodeCommand w = if w.msb then .reservedCmdHi w else .reservedCmd w) ∧
    ∀ s : State,
      exec (.reservedCmd w) s = .next { s with lastResp := .rejReserved, reply := some (.response .rejReserved) } ∧
      exec (.reservedCmdHi w) s = .next { s with lastResp := .rejReserved, reply := some (.response .rejReserved) }

/-- A step takes the next turn, decodes its word on its port and runs it (R6, R46, R120): the machine's own step, and the
step with any parameters, of which it is the case of the model's own (R50). The premise is R243's: the last INIT met
CLOCK_OK. MODEL'S CHOICE: that a step with no turn leaves the state, and that a sequencer step begins with an empty reply
port (log entry 1); that the controller's turn takes the oldest queued word, or does nothing where there is none (log entry
13). -/
def Obligations.StepRunsTheDecodedTurn : Prop :=
  let runsTheTurn (stp : State → Out) (run : Instr → State → Out) (read : ReadAddr → State → Out) (p : StatusParams)
      (s : State) : Prop :=
    (s.turns = [] → stp s = .next s) ∧
    (∀ w rest i, s.turns = .command w :: rest → decodeWith p (.command w) = .ok i →
      stp s = run i { s with turns := rest, reply := none }) ∧
    (∀ w rest i, s.turns = .event w :: rest → decodeWith p (.event w) = .ok i →
      stp s = run i { s with turns := rest, reply := none }) ∧
    (∀ rest, s.turns = .timeout :: rest → stp s = run .timeout { s with turns := rest, reply := none }) ∧
    (∀ a rest, s.turns = .read a :: rest → stp s = read a { s with turns := rest, reply := none }) ∧
    (∀ rest, s.turns = .controller :: rest → s.actions = [] → stp s = .next { s with turns := rest }) ∧
    (∀ rest a as i, s.turns = .controller :: rest → s.actions = a :: as → decodeWith p (.action a) = .ok i →
      stp s = run i { s with turns := rest, actions := as })
  (∀ s : State, s.outsideSpec Config.clockOk = false → runsTheTurn step exec execHostRead Config.status s) ∧
  (∀ (p : Params) (s : State), s.outsideSpec p.clockOk = false →
    runsTheTurn (stepWith p) (execWith p) (execHostReadIn p.cap) p.status s) ∧
  (∀ (i : Instr) (s : State), exec i s = execWith Config.params i s) ∧
  ∀ s : State, step s = stepWith Config.params s

/-- R243: INIT itself checks nothing, stores the configuration and emits its action; after one whose configuration fails
CLOCK_OK the model gives no meaning to any step. For all parameters. -/
def Obligations.BadClockRunIsRefused : Prop :=
  ∀ (p : Params) (div : Byte) (presc : BitVec 2), p.clockOk div presc = false →
    (∀ s : State, ∃ t : State, execWith p (.init div presc) s = .next t ∧ t.cfgDiv = div ∧ t.cfgPresc = presc ∧
      t.cfgValid = true ∧ t.actions = s.actions ++ [(Action.init div presc).word]) ∧
    ∀ t : State, t.cfgValid = true → t.cfgDiv = div → t.cfgPresc = presc → stepWith p t = .refused .clockNotOk

/-! ### Host commands -/

/-- R201: NOP is the word 0x00000000, is accepted in every state and writes LASTRESP only; with any bit of [27:0] set the
word is reserved. -/
def Obligations.NopOnlyResponds : Prop :=
  (∀ w : CommandWord, w >>> 28 = 0 → decodeCommand w = if w = 0 then .nop else .reservedCmd w) ∧
  ∀ s : State, exec .nop s = .next { s with lastResp := .accepted, reply := some (.response .accepted) }

/-- R202: what INIT writes, in every state, BUSY included; BUF is unchanged and one INIT action is emitted. -/
def Obligations.InitResetsTheSequencer : Prop :=
  ∀ (div : Byte) (presc : BitVec 2) (s : State),
    exec (.init div presc) s = .next { s with
      cfgDiv := div, cfgPresc := presc, cfgValid := true, state := .idle, result := .none, cursor := 0, dlen := 0,
      dir := .write, ackArmed := false, stray := false, lastResp := .accepted,
      reply := some (.response .accepted), actions := s.actions ++ [(Action.init div presc).word] }

/-- R212: INIT twice in a row emits the same action word and leaves the same registers; BUF is not touched. -/
def Obligations.InitIsIdempotent : Prop :=
  ∀ (div : Byte) (presc : BitVec 2) (s : State), ∃ t u : State,
    exec (.init div presc) s = .next t ∧ exec (.init div presc) t = .next u ∧
    t.actions = s.actions ++ [(Action.init div presc).word] ∧
    u.actions = t.actions ++ [(Action.init div presc).word] ∧
    u = { t with actions := u.actions } ∧ t.buf = s.buf

/-- R203 with R141 and R104: an accepted WRITE. BUF[0] takes `ADDR << 1`, every other cell reads as before, and one
START is emitted. -/
def Obligations.AcceptedWriteStartsATransaction : Prop :=
  ∀ (addr : BitVec 7) (len : Byte) (s : State),
    s.busy = false → s.cfgValid = true → len.toNat + 1 ≤ Config.cap →
    ∃ t : State, exec (.write addr len) s = .next t ∧
      t.buf.get? 0 = some (addr.setWidth 8 <<< 1) ∧ (∀ j, j ≠ 0 → t.buf.get? j = s.buf.get? j) ∧
      t.len = len.toNat + 1 ∧
      t = { s with
        buf := t.buf, dlen := t.dlen, cursor := 0, dir := .write, ackArmed := false, result := .none,
        state := .address, actions := s.actions ++ [0x2000#16], lastResp := .accepted,
        reply := some (.response .accepted) }

/-- R204 with R142 and R104: an accepted READ. BUF[0] takes `ADDR << 1 | 1`. -/
def Obligations.AcceptedReadStartsATransaction : Prop :=
  ∀ (addr : BitVec 7) (len : Byte) (s : State),
    s.busy = false → s.cfgValid = true → len.toNat + 1 ≤ Config.cap → 1 ≤ len.toNat →
    ∃ t : State, exec (.read addr len) s = .next t ∧
      t.buf.get? 0 = some ((addr.setWidth 8 <<< 1) ||| 1#8) ∧ (∀ j, j ≠ 0 → t.buf.get? j = s.buf.get? j) ∧
      t.len = len.toNat + 1 ∧
      t = { s with
        buf := t.buf, dlen := t.dlen, cursor := 0, dir := .read, ackArmed := false, result := .none,
        state := .address, actions := s.actions ++ [0x2000#16], lastResp := .accepted,
        reply := some (.response .accepted) }

/-- R200 and R235: the response of the first check that fails, in order, for WRITE, READ, RETIRE and BUFWR. -/
def Obligations.RejectionsFollowTheOrderOfChecks : Prop :=
  ∀ (addr : BitVec 7) (len idx data : Byte) (s : State),
    let rejected (i : Instr) (r : Resp) : Prop :=
      exec i s = .next { s with lastResp := r, reply := some (.response r) }
    (s.busy = true →
      rejected (.write addr len) .rejBusy ∧ rejected (.read addr len) .rejBusy ∧ rejected .retire .rejBusy ∧
      rejected (.bufwr idx data) .rejBusy) ∧
    (s.busy = false → s.cfgValid = false →
      rejected (.write addr len) .rejNotInit ∧ rejected (.read addr len) .rejNotInit) ∧
    (s.busy = false → s.cfgValid = true → Config.cap < len.toNat + 1 →
      rejected (.write addr len) .rejOverflow ∧ rejected (.read addr len) .rejOverflow) ∧
    (s.busy = false → s.cfgValid = true → len.toNat = 0 → rejected (.read addr len) .rejZeroLen) ∧
    (s.busy = false → (idx.toNat = 0 ∨ Config.cap ≤ idx.toNat) → rejected (.bufwr idx data) .rejIndex)

/-- R205: RETIRE consumes the held result, and is rejected while BUSY. CURSOR, DLEN, DIR, ACK_ARMED, STRAY and BUF are
unchanged. -/
def Obligations.RetireConsumesTheResult : Prop :=
  ∀ s : State,
    (s.busy = false → exec .retire s = .next { s with
      state := .idle, result := .none, lastResp := .accepted, reply := some (.response .accepted) }) ∧
    (s.busy = true → exec .retire s = .next { s with
      lastResp := .rejBusy, reply := some (.response .rejBusy) })

/-- R140: an accepted BUFWR writes its cell, and every other cell and register is unchanged; BUFWR of index 0 or of CAP
and above is rejected, and so is every BUFWR while BUSY. -/
def Obligations.BufwrWritesItsCell : Prop :=
  ∀ (idx data : Byte) (s : State),
    (s.busy = false → 1 ≤ idx.toNat → idx.toNat < Config.cap →
      ∃ t : State, exec (.bufwr idx data) s = .next t ∧
        t.buf.get? idx.toNat = some data ∧ (∀ j, j ≠ idx.toNat → t.buf.get? j = s.buf.get? j) ∧
        t = { s with buf := t.buf, lastResp := .accepted, reply := some (.response .accepted) }) ∧
    (s.busy = false → (idx.toNat = 0 ∨ Config.cap ≤ idx.toNat) → exec (.bufwr idx data) s =
      .next { s with lastResp := .rejIndex, reply := some (.response .rejIndex) }) ∧
    (s.busy = true → exec (.bufwr idx data) s =
      .next { s with lastResp := .rejBusy, reply := some (.response .rejBusy) })

/-- R99: a command that is not accepted writes nothing but LASTRESP (and the step's response) and emits no action. -/
def Obligations.RejectedCommandsWriteOnlyLastResp : Prop :=
  ∀ (i : Instr) (s t : State), i.isCommand = true → exec i s = .next t → t.lastResp ≠ .accepted →
    t = { s with lastResp := t.lastResp, reply := some (.response t.lastResp) }

/-- R140, R143 and R63 for every capacity, not this hardware's alone: CAP decides which lengths and indices a command is
accepted with, and where the host's buffer window ends. -/
def Obligations.EveryCapacityDecidesTheChecks : Prop :=
  ∀ (p : Params) (addr : BitVec 7) (len idx data : Byte) (a : ReadAddr) (s : State),
    (s.busy = false → s.cfgValid = true →
      ∀ i, i = Instr.write addr len ∨ (i = Instr.read addr len ∧ 1 ≤ len.toNat) →
        (len.toNat + 1 ≤ p.cap → ∃ t : State, execWith p i s = .next t ∧ t.lastResp = .accepted ∧
          t.state = .address ∧ t.len = len.toNat + 1) ∧
        (p.cap < len.toNat + 1 →
          execWith p i s = .next { s with lastResp := .rejOverflow, reply := some (.response .rejOverflow) })) ∧
    (s.busy = false → 1 ≤ idx.toNat → idx.toNat < p.cap → ∃ t : State, execWith p (.bufwr idx data) s = .next t ∧
      t.lastResp = .accepted ∧ t.buf.get? idx.toNat = some data) ∧
    (s.busy = false → p.cap ≤ idx.toNat → execWith p (.bufwr idx data) s =
      .next { s with lastResp := .rejIndex, reply := some (.response .rejIndex) }) ∧
    (∀ i b, i < p.cap → a.toNat = 0x0100 + i → s.buf.get? i = some b →
      execHostReadIn p.cap a s = .next { s with reply := some (.word (b.setWidth 32)) }) ∧
    (0x0100 + p.cap ≤ a.toNat → execHostReadIn p.cap a s = .next { s with reply := some (.word 0) })

/-- R209: while BUSY every WRITE, READ, RETIRE and BUFWR is rejected with no write but LASTRESP, and every command but
INIT keeps the transaction's registers and the buffer. -/
def Obligations.BusyCommandsKeepTheTransaction : Prop :=
  ∀ (i : Instr) (s : State), s.busy = true → i.isCommand = true → (∀ div presc, i ≠ .init div presc) →
    ∃ r : Resp, exec i s = .next { s with lastResp := r, reply := some (.response r) } ∧
      ((i = .retire ∨ (∃ a l, i = .write a l ∨ i = .read a l) ∨ ∃ j b, i = .bufwr j b) → r = .rejBusy)

/-! ### Events

What an event's report leaves in the bus controller is the model's reading (DEDUCED, log entry 7), and the statement
EventsUpdateTheControllersFlags has it. The others here say that some controller state `k` is left and nothing of it. -/

/-- R161 and R162: in any ACTIVE state Start and RepeatedStart send BUF[0] and leave ADDRESS with CURSOR 1. A
never-written cell sends a free draw (R148). -/
def Obligations.StartSendsTheSlaByte : Prop :=
  ∀ (status data : Byte) (s : State), s.busy = true →
    ∀ c i, (c = BusEvent.start ∧ i = Instr.evStart status data) ∨
        (c = BusEvent.repeatedStart ∧ i = Instr.evRepeatedStart status data) →
      (∀ b, s.buf.get? 0 = some b →
        ∃ k : Controller, exec i s = .next { s with
          ctrl := k, actions := s.actions ++ [(Action.send b).word], cursor := 1, state := .address }) ∧
      (s.buf.get? 0 = none →
        ∃ k : Controller, exec i s = .next { s with
          ctrl := k,
          actions := s.actions ++ [(Action.send (Config.freeByte s.draws)).word], cursor := 1, state := .address,
          draws := s.draws + 1 })

/-- R163: a legal AddrAckTx sends BUF[CURSOR] while CURSOR < DLEN, and ends the write with STOP when CURSOR = DLEN
(an address-only write). -/
def Obligations.AddrAckTxSendsOrStops : Prop :=
  ∀ (status data : Byte) (s : State), s.state = .address → s.cursor = 1 → s.dir = .write →
    (1 < s.len → ∀ b, s.buf.get? 1 = some b →
      ∃ k : Controller, exec (.evAddrAckTx status data) s = .next { s with
        ctrl := k, actions := s.actions ++ [(Action.send b).word], cursor := 2, state := .dataTx }) ∧
    (1 < s.len → s.buf.get? 1 = none →
      ∃ k : Controller, exec (.evAddrAckTx status data) s = .next { s with
        ctrl := k,
        actions := s.actions ++ [(Action.send (Config.freeByte s.draws)).word], cursor := 2, state := .dataTx,
        draws := s.draws + 1 }) ∧
    (s.len ≤ 1 →
      ∃ k : Controller, exec (.evAddrAckTx status data) s = .next { s with
        ctrl := k, actions := s.actions ++ [0x6000#16], state := .completing, result := .ok })

/-- R164: DataAckTx in DATA_TX sends BUF[CURSOR] while CURSOR < DLEN, and ends the write with STOP after the last
byte. The premise `DLEN ≤ CAP` is R41's. -/
def Obligations.DataAckTxSendsOrStops : Prop :=
  ∀ (status data : Byte) (s : State), s.state = .dataTx → s.len ≤ Config.cap →
    (s.cur < s.len → ∀ b, s.buf.get? s.cur = some b →
      ∃ k : Controller, exec (.evDataAckTx status data) s = .next { s with
        ctrl := k, actions := s.actions ++ [(Action.send b).word], cursor := s.cursor + 1 }) ∧
    (s.cur < s.len → s.buf.get? s.cur = none →
      ∃ k : Controller, exec (.evDataAckTx status data) s = .next { s with
        ctrl := k,
        actions := s.actions ++ [(Action.send (Config.freeByte s.draws)).word], cursor := s.cursor + 1,
        draws := s.draws + 1 }) ∧
    (s.len ≤ s.cur →
      ∃ k : Controller, exec (.evDataAckTx status data) s = .next { s with
        ctrl := k, actions := s.actions ++ [0x6000#16], state := .completing, result := .ok })

/-- R165 with R176: a legal AddrAckRx arms ACK when more than one byte remains and NACK otherwise. -/
def Obligations.AddrAckRxArmsTheAcknowledge : Prop :=
  ∀ (status data : Byte) (s : State), s.state = .address → s.cursor = 1 → s.dir = .read →
    (3 ≤ s.len →
      ∃ k : Controller, exec (.evAddrAckRx status data) s = .next { s with
        ctrl := k, actions := s.actions ++ [0x4000#16], ackArmed := true, state := .dataRx }) ∧
    (s.len ≤ 2 →
      ∃ k : Controller, exec (.evAddrAckRx status data) s = .next { s with
        ctrl := k, actions := s.actions ++ [0x5000#16], ackArmed := false, state := .dataRx })

/-- R166 with R176: a legal DataAckRx stores the byte at CURSOR, advances, and arms ACK or NACK for the next byte on
the new CURSOR. The premise `DLEN ≤ CAP` is R41's. -/
def Obligations.DataAckRxStoresAndArms : Prop :=
  ∀ (status data : Byte) (s : State), s.state = .dataRx → s.len ≤ Config.cap → s.cur + 2 ≤ s.len →
    ∃ t : State, exec (.evDataAckRx status data) s = .next t ∧
      t.buf.get? s.cur = some data ∧ (∀ j, j ≠ s.cur → t.buf.get? j = s.buf.get? j) ∧ t.cur = s.cur + 1 ∧
      (t.ackArmed = true ↔ s.cur + 3 ≤ s.len) ∧
      t = { s with
        ctrl := t.ctrl, buf := t.buf, cursor := s.cursor + 1, ackArmed := t.ackArmed,
        actions := s.actions ++ [if t.ackArmed then 0x4000#16 else 0x5000#16] }

/-- R167: DataNackRx in DATA_RX stores the byte at CURSOR, fixes DLEN at CURSOR + 1 and ends the read with STOP; CURSOR
and ACK_ARMED are unchanged. The premise `CURSOR < CAP` is R41's and R181's. -/
def Obligations.DataNackRxStoresAndStops : Prop :=
  ∀ (status data : Byte) (s : State), s.state = .dataRx → s.cur < Config.cap →
    ∃ t : State, exec (.evDataNackRx status data) s = .next t ∧
      t.buf.get? s.cur = some data ∧ (∀ j, j ≠ s.cur → t.buf.get? j = s.buf.get? j) ∧
      t = { s with
        ctrl := t.ctrl, buf := t.buf, dlen := s.cursor + 1, actions := s.actions ++ [0x6000#16], state := .completing,
        result := .ok }

/-- R168 to R172 with R175: the error categories abort in any ACTIVE state. -/
def Obligations.ErrorEventsAbort : Prop :=
  ∀ (status data : Byte) (s : State), s.busy = true →
    let aborts (i : Instr) (r : Result) : Prop := ∃ k : Controller, exec i s = .next { s with
      ctrl := k, actions := s.actions ++ [(Action.reinit s.cfgDiv s.cfgPresc).word], cursor := 0, ackArmed := false,
      state := .failed, result := r }
    aborts (.evAddrNackTx status data) .addressNack ∧ aborts (.evAddrNackRx status data) .addressNack ∧
    aborts (.evDataNackTx status data) .dataNack ∧ aborts (.evArbitrationLost status data) .arbitrationLost ∧
    aborts (.evUnknown status data) .unknownStatus

/-- R174 with the table of R160: an acknowledge or receive event that is illegal in the ACTIVE state aborts with
UNKNOWN_STATUS, and no buffer cell is written. -/
def Obligations.ProtocolViolationsAbort : Prop :=
  ∀ (status data : Byte) (s : State), s.busy = true →
    let aborts (i : Instr) : Prop := ∃ k : Controller, exec i s = .next { s with
      ctrl := k, actions := s.actions ++ [(Action.reinit s.cfgDiv s.cfgPresc).word], cursor := 0, ackArmed := false,
      state := .failed, result := .unknownStatus }
    (¬(s.state = .address ∧ s.cur = 1 ∧ s.dir = .write) → aborts (.evAddrAckTx status data)) ∧
    (s.state ≠ .dataTx → aborts (.evDataAckTx status data)) ∧
    (¬(s.state = .address ∧ s.cur = 1 ∧ s.dir = .read) → aborts (.evAddrAckRx status data)) ∧
    (¬(s.state = .dataRx ∧ 2 ≤ s.len - s.cur) → aborts (.evDataAckRx status data)) ∧
    (s.state ≠ .dataRx → aborts (.evDataNackRx status data))

/-- R173: an event of any category while not ACTIVE is stray. A held result survives. -/
def Obligations.EventsWhileNotActiveAreStray : Prop :=
  ∀ (c : BusEvent) (status data : Byte) (s : State), s.busy = false →
    ∃ k : Controller, exec (eventInstr c status data) s = .next { s with
      ctrl := k, actions := s.actions ++ [(Action.reinit s.cfgDiv s.cfgPresc).word], stray := true, ackArmed := false }

/-- R177 with R175: TIMEOUT aborts while BUSY and has no effect otherwise. -/
def Obligations.TimeoutAbortsOnlyWhileBusy : Prop :=
  ∀ s : State,
    (s.busy = true → exec .timeout s = .next { s with
      actions := s.actions ++ [(Action.reinit s.cfgDiv s.cfgPresc).word], cursor := 0, ackArmed := false,
      state := .failed, result := .timeout }) ∧
    (s.busy = false → exec .timeout s = .next s)

/-- R49 and R90: after any event step the controller's event-pending flag is set, its status and data registers hold
the word's fields, a Start or RepeatedStart has consumed the START request, a SEND that the step emitted is marked as the
SLA byte's or a data byte's, and the rest of the controller is as it was. MODEL'S CHOICE: that the registers hold the
fields, and that the rest stays, a stop or acknowledge request too where the report shows it served, as DataAckRx and
DataNackRx do (both DEDUCED, log entry 7); what it was asked for and the marks, the model's own record (DEDUCED, log entry
10). -/
def Obligations.EventsUpdateTheControllersFlags : Prop :=
  ∀ (c : BusEvent) (status data : Byte) (s t : State), exec (eventInstr c status data) s = .next t →
    t.ctrl = { s.ctrl with
      status := status, data := data, eventPending := true,
      startReq := if c = .start ∨ c = .repeatedStart then false else s.ctrl.startReq,
      asked := .answered, sendMarks := t.ctrl.sendMarks } ∧
    (∀ b, t.actions = s.actions ++ [(Action.send b).word] →
      t.ctrl.sendMarks = s.ctrl.sendMarks ++ [if c = .start ∨ c = .repeatedStart then true else false]) ∧
    ((∀ b, t.actions ≠ s.actions ++ [(Action.send b).word]) → t.ctrl.sendMarks = s.ctrl.sendMarks)

/-- R94: the DATA field changes nothing in the sequencer unless the event is DataAckRx or DataNackRx, and the raw
status bits of an event never do. -/
def Obligations.EventDataIsIgnoredOutsideReceive : Prop :=
  ∀ (c : BusEvent) (st st' data data' : Byte) (s : State),
    (c = .dataAckRx ∨ c = .dataNackRx → data = data') →
    seqPart (exec (eventInstr c st data) s) = seqPart (exec (eventInstr c st' data') s)

/-- R127: every event step emits exactly one action, and it is a releasing one. -/
def Obligations.EveryEventIsReleasedOnce : Prop :=
  ∀ (i : Instr) (s t : State), i.isEvent = true → exec i s = .next t →
    ∃ a : Action, releases a = true ∧ t.actions = s.actions ++ [a.word]

/-! ### The whole machine -/

/-- R120: a command or TIMEOUT step emits at most one action, a host read none, and the bus controller taking a word
emits none. -/
def Obligations.ActionsPerStepAreBounded : Prop :=
  (∀ (i : Instr) (s t : State), i.isEvent = false → exec i s = .next t →
    t.actions = s.actions ∨
      (i.isAction = false ∧ ∃ a : Action, t.actions = s.actions ++ [a.word])) ∧
  ∀ (a : ReadAddr) (s t : State), execHostRead a s = .next t → t.actions = s.actions

/-- The frame of memory (R61): a cell that an input does not store to reads as before, for every input and every
state. -/
def Obligations.StoresReachOnlyTheirCell : Prop :=
  ∀ (i : Instr) (s t : State), exec i s = .next t →
    ∀ j, storeIndex i s ≠ some j → t.buf.get? j = s.buf.get? j

/-- R72: only WRITE and READ acceptance write index 0. -/
def Obligations.OnlyLoadsWriteTheSlaCell : Prop :=
  ∀ (i : Instr) (s t : State), s.Inv Config.cap → exec i s = .next t → t.buf.get? 0 ≠ s.buf.get? 0 →
    (∃ a l, i = .write a l ∨ i = .read a l) ∧ t.lastResp = .accepted

/-- R37 and R38: the configuration registers are written by INIT only. -/
def Obligations.OnlyInitWritesTheConfiguration : Prop :=
  ∀ (i : Instr) (s t : State), exec i s = .next t →
    (∃ div presc, i = .init div presc ∧ t.cfgDiv = div ∧ t.cfgPresc = presc ∧ t.cfgValid = true) ∨
    (t.cfgDiv = s.cfgDiv ∧ t.cfgPresc = s.cfgPresc ∧ t.cfgValid = s.cfgValid)

/-- R39: STRAY is set by an event while not ACTIVE, cleared by INIT, and changed by nothing else. -/
def Obligations.StrayIsSetByStrayEventsAndClearedByInit : Prop :=
  ∀ (i : Instr) (s t : State), exec i s = .next t →
    t.stray = (if i.isEvent = true ∧ s.busy = false then true
      else match i with
        | .init _ _ => false
        | _ => s.stray)

/-- R40 and R6: every host command writes LASTRESP with its response, and no other input writes it. -/
def Obligations.OnlyCommandsWriteLastResp : Prop :=
  ∀ (i : Instr) (s t : State), exec i s = .next t →
    (i.isCommand = true → t.reply = some (.response t.lastResp)) ∧
    (i.isCommand = false → t.lastResp = s.lastResp ∧ t.reply = s.reply)

/-- R238: an event or TIMEOUT that arrives in FAILED does not abort again; the first error's reason is kept. -/
def Obligations.FailedKeepsTheFirstReason : Prop :=
  ∀ (i : Instr) (s : State), s.state = .failed → i.isEvent = true ∨ i = .timeout →
    ∃ t : State, exec i s = .next t ∧ t.state = .failed ∧ t.result = s.result ∧
      (i.isEvent = true → t.stray = true) ∧ (i = .timeout → t = s)

/-- R237: FAILED is left in three ways only: RETIRE to IDLE, an accepted WRITE or READ to ADDRESS, INIT to IDLE. -/
def Obligations.FailedIsLeftByHostCommandsOnly : Prop :=
  ∀ (i : Instr) (s t : State), s.state = .failed → exec i s = .next t → t.state ≠ .failed →
    (i = .retire ∧ t.state = .idle) ∨ ((∃ a l, i = .write a l ∨ i = .read a l) ∧ t.state = .address) ∨
    ((∃ d p, i = .init d p) ∧ t.state = .idle)

/-- The buffer while no transaction is in flight (R75, R267): no event and no TIMEOUT writes it, so what DONE showed to
the host stays until the host's own next command. -/
def Obligations.EventsWriteTheBufferOnlyWhileBusy : Prop :=
  ∀ (i : Instr) (s t : State), s.busy = false → i.isCommand = false → exec i s = .next t →
    t.buf = s.buf ∧ t.state = s.state ∧ t.result = s.result ∧ t.cursor = s.cursor ∧ t.dlen = s.dlen ∧ t.dir = s.dir

/-- R49 and R131: the sequencer never reads the bus controller's state. Every input but an action word gives the same
sequencer outcome whatever the controller holds, and so does a host read. -/
def Obligations.TheSequencerNeverReadsTheController : Prop :=
  (∀ (i : Instr) (s : State) (c : Controller), i.isAction = false →
    seqPart (exec i { s with ctrl := c }) = seqPart (exec i s)) ∧
  ∀ (a : ReadAddr) (s : State) (c : Controller),
    seqPart (execHostRead a { s with ctrl := c }) = seqPart (execHostRead a s)

/-! ### The bus controller -/

/-- R121 to R126: what each action word changes in the bus controller when it takes the word. MODEL'S CHOICE: that an ACT
constructor is the controller taking its word (log entry 2); that a stop or acknowledge request stays through START, SEND,
the ARM words and STOP (log entry 7); that INIT, START, the ARM words and STOP leave the status and data registers as they
were and SEND the status register, that a word other than INIT and REINIT leaves the clock timing, and one other than those
and START the START request, and that REINIT leaves some byte in each register, for every value of the counter (log entry
8); and the record of what the controller was last asked for,
with the marks that tell an SLA byte from a data byte (log entry 10). -/
def Obligations.ActionWordsActOnTheController : Prop :=
  ∀ (div b : Byte) (presc : BitVec 2) (s : State),
    exec (.actInit div presc) s = .next { s with ctrl := { s.ctrl with
      clkDiv := div, clkPresc := presc, startReq := false, stopReq := false, ackReq := none,
      eventPending := false, asked := .silence } } ∧
    exec .actStart s = .next { s with ctrl := { s.ctrl with startReq := true, asked := .start } } ∧
    exec (.actSend b) s = .next { s with ctrl := { s.ctrl with
      data := b, eventPending := false, sendMarks := s.ctrl.sendMarks.tail,
      asked := if s.ctrl.sendMarks.head? = some true then .slaByte (if b.getLsbD 0 then .read else .write)
        else .dataByte } } ∧
    exec .actArmAck s = .next { s with ctrl := { s.ctrl with
      ackReq := some .ack, eventPending := false, asked := .receive .ack } } ∧
    exec .actArmNack s = .next { s with ctrl := { s.ctrl with
      ackReq := some .nack, eventPending := false, asked := .receive .nack } } ∧
    exec .actStop s = .next { s with ctrl := { s.ctrl with
      stopReq := true, eventPending := false, asked := .silence } } ∧
    ∃ status data : Byte, exec (.actReinit div presc) s = .next { s with
      ctrl := { s.ctrl with
        clkDiv := div, clkPresc := presc, startReq := false, stopReq := false, ackReq := none,
        eventPending := false, asked := .silence, status := status, data := data },
      draws := s.draws + 2 }

/-- R49 (a) and R127 together, for all parameters: once the bus controller has taken every action word that an event step
emitted, the event that the step took is released. (That the controller's turn takes the word is log entries 2 and 13.) -/
def Obligations.TakingTheEmittedActionReleasesTheEvent : Prop :=
  ∀ (p : Params) (i : Instr) (s t : State), s.outsideSpec p.clockOk = false → i.isEvent = true → s.actions = [] →
    execWith p i s = .next t →
    ∃ u : State, stepWith p { t with turns := [.controller] } = .next u ∧ u.ctrl.eventPending = false ∧
      u.actions = [] ∧ u = { t with turns := [], actions := [], ctrl := u.ctrl, draws := u.draws }

/-- R128: while the controller is in step with the sequencer, an event of a controller that keeps the contract is never a
protocol violation, a DataNackRx ends a read with its declared length unchanged, and only Unknown can be stray once the
controller has taken a word. For every capacity. (The record of what it was asked for is DEDUCED, log entry 10.) -/
def Obligations.ContractEventsAreLegal : Prop :=
  ∀ (cap : Nat) (s : State) (c : BusEvent), s.Inv cap → s.inStep → s.contractAllows c = true →
    (s.busy = true → s.legal c = true ∧ (c = .dataNackRx → s.cur + 1 = s.len)) ∧
    (s.busy = false → c = .unknown ∨ s.ctrl.asked = .nothingYet)

/-- R128 with R120, for all parameters: from a state in step any input, an event only if the contract allows it, leaves
the controller in step again once it has taken the word that the input emitted, if any. The premise on the clock is
R243's. MODEL'S CHOICE: the first clause, that it is in step at reset, where R262 leaves the controller's state open: no
event pending (DESIGN CHOICE, log entry 7) and asked for nothing yet (DESIGN CHOICE, log entry 10); the record of what it
was asked for (DEDUCED, log entry 10); that its turn takes the oldest word, or does nothing (DESIGN CHOICE, log entry
13). -/
def Obligations.ContractKeepsTheControllerInStep : Prop :=
  State.reset.inStep ∧
  ∀ (p : Params) (i : Instr) (s t : State), s.Inv p.cap → s.inStep → i.isAction = false →
    (∀ c status data, i = eventInstr c status data → s.contractAllows c = true) →
    execWith p i s = .next t → t.outsideSpec p.clockOk = false →
    ∃ u : State, t.feed p [.controller] = .next u ∧ u.inStep

/-- R128 with R234 (a), R173, R177 and R202: a TIMEOUT or an INIT may cross the answer to an earlier word, and that answer
is then stray. For all parameters. MODEL'S CHOICE: that the contract still allows the answer after the recovery, which
rests on the record of what the controller was last asked for (DEDUCED, log entry 10); and that the recovery's word may
stay queued while the event is taken (DESIGN CHOICE, log entry 13). -/
def Obligations.AnAnswerMayCrossARecovery : Prop :=
  ∀ (p : Params) (c : BusEvent) (status data div : Byte) (presc : BitVec 2) (s : State),
    s.busy = true → s.contractAllows c = true →
    (∃ t u : State, execWith p .timeout s = .next t ∧ t.contractAllows c = true ∧
      execWith p (eventInstr c status data) t = .next u ∧ u.state = .failed ∧ u.result = .timeout ∧ u.stray = true ∧
      u.buf = s.buf ∧ u.actions = s.actions ++
        [(Action.reinit s.cfgDiv s.cfgPresc).word, (Action.reinit s.cfgDiv s.cfgPresc).word]) ∧
    (∃ t u : State, execWith p (.init div presc) s = .next t ∧ t.contractAllows c = true ∧
      execWith p (eventInstr c status data) t = .next u ∧ u.state = .idle ∧ u.result = .none ∧ u.stray = true ∧
      u.buf = s.buf ∧ u.actions = s.actions ++
        [(Action.init div presc).word, (Action.reinit div presc).word])

/-! ### Host reads -/

/-- R63 and R64, with the response codes of R99: the host read map. -/
def Obligations.HostReadMap : Prop :=
  ∀ (a : ReadAddr) (s : State),
    (a = 0x0000 → execHostRead a s = .next { s with reply := some (.word s.statusWord) }) ∧
    (a = 0x0001 → execHostRead a s = .next { s with reply := some (.word s.cfgWord) }) ∧
    (a = 0x0002 → execHostRead a s = .next { s with reply := some (.word (match s.lastResp with
      | .accepted => 0 | .rejBusy => 1 | .rejOverflow => 2 | .rejZeroLen => 3 | .rejNotInit => 4 | .rejIndex => 5
      | .rejReserved => 6)) }) ∧
    (∀ i b, i < Config.cap → a.toNat = 0x0100 + i → s.buf.get? i = some b →
      execHostRead a s = .next { s with reply := some (.word (b.setWidth 32)) }) ∧
    (∀ i, i < Config.cap → a.toNat = 0x0100 + i → s.buf.get? i = none →
      execHostRead a s = .next { s with
        reply := some (.word ((Config.freeByte s.draws).setWidth 32)), draws := s.draws + 1 }) ∧
    (3 ≤ a.toNat → (a.toNat < 0x0100 ∨ 0x0100 + Config.cap ≤ a.toNat) →
      execHostRead a s = .next { s with reply := some (.word 0) })

/-- R65: a host read always answers and changes no register, no cell and no action, so nothing but the reply port and
the model's own count of draws; a second read with no step between returns the same word, except of a never-written
cell, each read of which is a fresh draw. -/
def Obligations.HostReadChangesNoState : Prop :=
  ∀ (a : ReadAddr) (s : State), ∃ w n, execHostRead a s = .next { s with reply := some (.word w), draws := n } ∧
    ((0x0100 ≤ a.toNat ∧ a.toNat < 0x0100 + Config.cap ∧ s.buf.get? (a.toNat - 0x0100) = none ∧ n = s.draws + 1) ∨
      (n = s.draws ∧
        execHostRead a { s with reply := some (.word w) } = .next { s with reply := some (.word w) }))

/-- R106 and R107, with the encodings of R30, R31 and R35: every field of the status word and of the configuration
word. -/
def Obligations.StatusWordFields : Prop :=
  ∀ s : State,
    s.statusWord.extractLsb' 0 3 = (match s.state with
      | .idle => 0 | .address => 1 | .dataTx => 2 | .dataRx => 3 | .completing => 4 | .failed => 5) ∧
    (s.statusWord.getLsbD 3 = true ↔ s.state = .address ∨ s.state = .dataTx ∨ s.state = .dataRx) ∧
    (s.statusWord.getLsbD 4 = true ↔ s.state = .completing ∨ s.state = .failed) ∧
    s.statusWord.getLsbD 5 = s.ackArmed ∧
    (s.statusWord.getLsbD 6 = true ↔ s.dir = .read) ∧
    s.statusWord.getLsbD 7 = s.cfgValid ∧ s.statusWord.getLsbD 8 = s.stray ∧
    s.statusWord.extractLsb' 9 4 = (match s.result with
      | .none => 0 | .ok => 1 | .addressNack => 2 | .dataNack => 3 | .arbitrationLost => 4 | .timeout => 5
      | .unknownStatus => 6) ∧
    s.statusWord.extractLsb' 13 9 = s.cursor ∧ s.statusWord.extractLsb' 22 9 = s.dlen ∧
    s.statusWord.getLsbD 31 = false ∧
    s.cfgWord.extractLsb' 0 8 = s.cfgDiv ∧ s.cfgWord.extractLsb' 8 2 = s.cfgPresc ∧ s.cfgWord.extractLsb' 10 22 = 0

/-- R144: after a read that ended well, the received bytes are BUF[1] to BUF[CURSOR], CURSOR is DLEN − 1, and the host
reads each through the read port. -/
def Obligations.SnapshotIsReadable : Prop :=
  ∀ s : State, s.Inv Config.cap → s.state = .completing → s.dir = .read →
    s.result = .ok ∧ s.cur = s.len - 1 ∧ 1 ≤ s.cur ∧
    ∀ i, 1 ≤ i → i ≤ s.cur → ∃ b, s.buf.get? i = some b ∧
      execHostRead (BitVec.ofNat 16 (0x0100 + i)) s = .next { s with reply := some (.word (b.setWidth 32)) }

/-! ### Invariants -/

/-- The invariant holds right after reset, for every capacity: R32, R41, R144 and R181, with the clauses that are the
model's own (on ACK_ARMED, the SLA byte, the received cells and the configuration, log entry 15; the canonical list, log entry 11; the
action queue, log entry 13; the marks of the SENDs in it, log entry 10). -/
def Obligations.ResetMeetsTheInvariant : Prop := ∀ cap : Nat, State.reset.Inv cap

/-- From every state that meets the invariant every step keeps it: the machine's own step, and the step with any parameters.
The invariant's bounds, agreement and phases are R32, R41, R144 and R181; MODEL'S OWN are its clauses
on ACK_ARMED (from R165, R166, R176), the SLA byte (R104, R200), the received cells (R144, R146) and the configuration
(R200, R262), DEDUCED in log entry 15; the canonical list (log entry 11); the action queue (log entries 12 and 13); and
the marks of the SENDs in it (log entry 10).
A step with no turn stays where it is (log entry 1). -/
def Obligations.EveryStepKeepsTheInvariant : Prop :=
  (∀ s t : State, s.Inv Config.cap → step s = .next t → t.Inv Config.cap) ∧
  ∀ (p : Params) (s t : State), s.Inv p.cap → stepWith p s = .next t → t.Inv p.cap

/-- R231: errors never stop the sequencer. From every state that meets the invariant (log entry 15 beside its rules), every
step has a next state once the clock configuration is valid (R243), for all parameters. What the empty
turn and the controller's turn do is the model's choice (log entries 1, 12 and 13). -/
def Obligations.ErrorsNeverStopTheSequencer : Prop :=
  ∀ (p : Params) (s : State), s.Inv p.cap → s.outsideSpec p.clockOk = false →
    ∃ t : State, stepWith p s = .next t

/-! ### Transactions, for all parameters -/

/-- R179: a WRITE of L bytes from a non-BUSY state, answered with Start, AddrAckTx and L times DataAckTx, emits START,
the L + 1 bytes of BUF[0..L] in order and STOP, and ends well with CURSOR = DLEN = L + 1. A byte sent from a written
cell is the cell's; one sent from a never-written cell is some byte (R148). -/
def Obligations.WriteTransactionSendsItsBytes : Prop :=
  ∀ (p : Params) (s : State) (addr : BitVec 7) (len : Byte) (evs : List EventWord),
    s.busy = false → s.cfgValid = true → s.outsideSpec p.clockOk = false → len.toNat + 1 ≤ p.cap →
    evs.map (fun w => p.status.category (w.extractLsb' 8 8)) =
      [BusEvent.start, BusEvent.addrAckTx] ++ List.replicate len.toNat BusEvent.dataAckTx →
    ∃ (t : State) (sent : List Byte),
      s.feed p (.command (0x20000000#32 ||| addr.setWidth 32 <<< 16 ||| len.setWidth 32) ::
        evs.map Turn.event) = .next t ∧
      sent.length = len.toNat ∧ (∀ k b, k < len.toNat → s.buf.get? (k + 1) = some b → sent[k]? = some b) ∧
      t.actions = s.actions ++ [Action.start.word] ++
        (((addr.setWidth 8 <<< 1) :: sent).map fun b => (Action.send b).word) ++ [Action.stop.word] ∧
      t.state = .completing ∧ t.result = .ok ∧ t.cur = len.toNat + 1 ∧ t.len = len.toNat + 1

/-- R180: a READ of L bytes from a non-BUSY state, answered with Start, AddrAckRx, L − 1 times DataAckRx and then
DataNackRx, emits START, the SLA byte, L − 1 times ARM_ACK, ARM_NACK and STOP, and ends well with CURSOR = L,
DLEN = L + 1 and the received bytes in BUF[1..L]. -/
def Obligations.ReadTransactionStoresItsBytes : Prop :=
  ∀ (p : Params) (s : State) (addr : BitVec 7) (len : Byte) (evs : List EventWord) (e0 e1 : EventWord),
    s.busy = false → s.cfgValid = true → s.outsideSpec p.clockOk = false → len.toNat + 1 ≤ p.cap → 1 ≤ len.toNat →
    p.status.category (e0.extractLsb' 8 8) = BusEvent.start →
    p.status.category (e1.extractLsb' 8 8) = BusEvent.addrAckRx →
    evs.map (fun w => p.status.category (w.extractLsb' 8 8)) =
      List.replicate (len.toNat - 1) BusEvent.dataAckRx ++ [BusEvent.dataNackRx] →
    ∃ t : State,
      s.feed p (.command (0x30000000#32 ||| addr.setWidth 32 <<< 16 ||| len.setWidth 32) ::
        .event e0 :: .event e1 :: evs.map Turn.event) = .next t ∧
      t.actions = s.actions ++ [Action.start.word, (Action.send ((addr.setWidth 8 <<< 1) ||| 1#8)).word] ++
        List.replicate (len.toNat - 1) Action.armAck.word ++ [Action.armNack.word, Action.stop.word] ∧
      t.state = .completing ∧ t.result = .ok ∧ t.cur = len.toNat ∧ t.len = len.toNat + 1 ∧
      ∀ k, k < len.toNat → t.buf.get? (k + 1) = (evs.map fun w => w.extractLsb' 0 8)[k]?

/-- R234 (a): the last event of a write and TIMEOUT offered together. Event first, the write ends well and TIMEOUT is
ignored; TIMEOUT first, the write aborts with TIMEOUT and the event is stray. -/
def Obligations.EventAndTimeoutInEitherOrder : Prop :=
  ∀ (p : Params) (s : State) (w : EventWord), s.outsideSpec p.clockOk = false → s.state = .dataTx → s.cur = s.len →
    p.status.category (w.extractLsb' 8 8) = BusEvent.dataAckTx →
    (∃ t : State, s.feed p [.event w, .timeout] = .next t ∧ t.state = .completing ∧ t.result = .ok ∧
      t.stray = s.stray ∧ t.actions = s.actions ++ [Action.stop.word]) ∧
    (∃ t : State, s.feed p [.timeout, .event w] = .next t ∧ t.state = .failed ∧ t.result = .timeout ∧
      t.stray = true ∧ t.actions = s.actions ++
        [(Action.reinit s.cfgDiv s.cfgPresc).word, (Action.reinit s.cfgDiv s.cfgPresc).word])

/-- R234 (b): a WRITE and the last event of the previous transaction offered together. Command first, it is rejected
with REJ_BUSY; event first, it is accepted. -/
def Obligations.CommandAndLastEventInEitherOrder : Prop :=
  ∀ (p : Params) (s : State) (w : EventWord) (addr : BitVec 7) (len : Byte),
    s.outsideSpec p.clockOk = false → s.cfgValid = true → len.toNat + 1 ≤ p.cap → s.state = .dataTx → s.cur = s.len →
    p.status.category (w.extractLsb' 8 8) = BusEvent.dataAckTx →
    let write : Turn := .command (0x20000000#32 ||| addr.setWidth 32 <<< 16 ||| len.setWidth 32)
    (∃ t : State, s.feed p [write, .event w] = .next t ∧
      t.lastResp = .rejBusy ∧ t.state = .completing ∧ t.result = .ok) ∧
    (∃ t : State, s.feed p [.event w, write] = .next t ∧
      t.lastResp = .accepted ∧ t.state = .address ∧ t.result = .none ∧
      t.buf.get? 0 = some (addr.setWidth 8 <<< 1) ∧ t.len = len.toNat + 1)
end

