-- ==== Sys2Proof/Laws/Memory.lean ====
section
/-! SUPPORT. The laws of the transfer buffer: a read after a write, and the canonical form every operation keeps. -/

namespace Sys2Proof.Machine

@[simp] theorem Memory.get?_nil (i : Nat) : Memory.get? [] i = none := rfl

@[simp] theorem Memory.get?_put_self (m : Memory) (i : Nat) (v : Byte) : (m.put i v).get? i = some v := by
  induction m with
  | nil => simp [Memory.put, Memory.get?]
  | cons c m ih =>
    obtain ⟨a, w⟩ := c
    by_cases h : i < a
    · simp [Memory.put, Memory.get?, h]
    · by_cases h' : i = a <;> simp [Memory.put, Memory.get?, h, h', ih]

theorem Memory.get?_put_other (m : Memory) (i j : Nat) (v : Byte) (h : j ≠ i) :
    (m.put i v).get? j = m.get? j := by
  induction m with
  | nil => simp [Memory.put, Memory.get?, h]
  | cons c m ih =>
    obtain ⟨a, w⟩ := c
    by_cases hi : i < a
    · simp [Memory.put, Memory.get?, hi, h]
    · by_cases h' : i = a
      · subst h'; simp [Memory.put, Memory.get?, h]
      · simp [Memory.put, Memory.get?, hi, h', ih]

theorem Memory.get?_put (m : Memory) (i j : Nat) (v : Byte) :
    (m.put i v).get? j = if j = i then some v else m.get? j := by
  by_cases h : j = i
  · subst h; simp
  · simp [h, Memory.get?_put_other]

/-- A write at `lo` or above keeps the indices rising from `lo`. -/
theorem Memory.risesFrom_put (m : Memory) (lo i : Nat) (v : Byte) (hm : m.risesFrom lo = true) (hlo : lo ≤ i) :
    (m.put i v).risesFrom lo = true := by
  induction m generalizing lo with
  | nil => simp [Memory.put, Memory.risesFrom, hlo]
  | cons c m ih =>
    obtain ⟨a, w⟩ := c
    simp only [Memory.risesFrom, Bool.and_eq_true, decide_eq_true_eq] at hm
    obtain ⟨h1, h2⟩ := hm
    by_cases hlt : i < a
    · have : i + 1 ≤ a := hlt
      simp [Memory.put, Memory.risesFrom, hlt, hlo, this, h2]
    · by_cases heq : i = a
      · subst heq; simp [Memory.put, Memory.risesFrom, hlo, h2]
      · have : a + 1 ≤ i := by omega
        simp [Memory.put, Memory.risesFrom, hlt, heq, h1, ih _ h2 this]

/-- Every memory operation keeps the canonical form: a write is the only one that changes memory. -/
theorem Memory.wf_put (m : Memory) (i : Nat) (v : Byte) (hm : m.wf = true) : (m.put i v).wf = true :=
  Memory.risesFrom_put m 0 i v hm (Nat.zero_le i)

/-- A write of a cell lists only cells. -/
theorem Memory.within_put (cap : Nat) (m : Memory) (i : Nat) (v : Byte) (hm : m.within cap = true) (hi : i < cap) :
    (m.put i v).within cap = true := by
  induction m with
  | nil => simp [Memory.put, Memory.within, hi]
  | cons c m ih =>
    obtain ⟨a, w⟩ := c
    simp only [Memory.within, List.all_cons, Bool.and_eq_true, decide_eq_true_eq] at hm ih
    by_cases hlt : i < a
    · simpa [Memory.put, Memory.within, hlt, hi, hm.1] using hm.2
    · by_cases heq : i = a
      · subst heq; simpa [Memory.put, Memory.within, hi] using hm.2
      · simpa [Memory.put, Memory.within, hlt, heq, hm.1] using ih hm.2

@[simp] theorem Memory.wf_nil : Memory.wf [] = true := rfl

@[simp] theorem Memory.within_nil (cap : Nat) : Memory.within cap [] = true := rfl

theorem State.reset_buf_wf : State.reset.buf.wf = true := rfl

theorem Config.cap_pos : 0 < Config.cap := by decide
theorem Config.cap_lt_512 : Config.cap < 512 := by decide

end Sys2Proof.Machine
end

