-- ==== Sys2Proof/Laws/State.lean ====
section
/-! SUPPORT. One lemma per field per shared update of State, so that no later proof unfolds a record update. -/

namespace Sys2Proof.Machine

/-! ### emit -/

@[simp] theorem State.emit_state (s : State) (a : Action) : (s.emit a).state = s.state := rfl
@[simp] theorem State.emit_result (s : State) (a : Action) : (s.emit a).result = s.result := rfl
@[simp] theorem State.emit_cursor (s : State) (a : Action) : (s.emit a).cursor = s.cursor := rfl
@[simp] theorem State.emit_dlen (s : State) (a : Action) : (s.emit a).dlen = s.dlen := rfl
@[simp] theorem State.emit_dir (s : State) (a : Action) : (s.emit a).dir = s.dir := rfl
@[simp] theorem State.emit_ackArmed (s : State) (a : Action) : (s.emit a).ackArmed = s.ackArmed := rfl
@[simp] theorem State.emit_cfgDiv (s : State) (a : Action) : (s.emit a).cfgDiv = s.cfgDiv := rfl
@[simp] theorem State.emit_cfgPresc (s : State) (a : Action) : (s.emit a).cfgPresc = s.cfgPresc := rfl
@[simp] theorem State.emit_cfgValid (s : State) (a : Action) : (s.emit a).cfgValid = s.cfgValid := rfl
@[simp] theorem State.emit_stray (s : State) (a : Action) : (s.emit a).stray = s.stray := rfl
@[simp] theorem State.emit_lastResp (s : State) (a : Action) : (s.emit a).lastResp = s.lastResp := rfl
@[simp] theorem State.emit_buf (s : State) (a : Action) : (s.emit a).buf = s.buf := rfl
@[simp] theorem State.emit_turns (s : State) (a : Action) : (s.emit a).turns = s.turns := rfl
@[simp] theorem State.emit_actions (s : State) (a : Action) : (s.emit a).actions = s.actions ++ [a.word] := rfl
@[simp] theorem State.emit_reply (s : State) (a : Action) : (s.emit a).reply = s.reply := rfl
@[simp] theorem State.emit_ctrl (s : State) (a : Action) : (s.emit a).ctrl = s.ctrl := rfl
@[simp] theorem State.emit_draws (s : State) (a : Action) : (s.emit a).draws = s.draws := rfl

/-! ### markSend -/

@[simp] theorem State.markSend_state (s : State) (b : Bool) : (s.markSend b).state = s.state := rfl
@[simp] theorem State.markSend_result (s : State) (b : Bool) : (s.markSend b).result = s.result := rfl
@[simp] theorem State.markSend_cursor (s : State) (b : Bool) : (s.markSend b).cursor = s.cursor := rfl
@[simp] theorem State.markSend_dlen (s : State) (b : Bool) : (s.markSend b).dlen = s.dlen := rfl
@[simp] theorem State.markSend_dir (s : State) (b : Bool) : (s.markSend b).dir = s.dir := rfl
@[simp] theorem State.markSend_ackArmed (s : State) (b : Bool) : (s.markSend b).ackArmed = s.ackArmed := rfl
@[simp] theorem State.markSend_cfgDiv (s : State) (b : Bool) : (s.markSend b).cfgDiv = s.cfgDiv := rfl
@[simp] theorem State.markSend_cfgPresc (s : State) (b : Bool) : (s.markSend b).cfgPresc = s.cfgPresc := rfl
@[simp] theorem State.markSend_cfgValid (s : State) (b : Bool) : (s.markSend b).cfgValid = s.cfgValid := rfl
@[simp] theorem State.markSend_stray (s : State) (b : Bool) : (s.markSend b).stray = s.stray := rfl
@[simp] theorem State.markSend_lastResp (s : State) (b : Bool) : (s.markSend b).lastResp = s.lastResp := rfl
@[simp] theorem State.markSend_buf (s : State) (b : Bool) : (s.markSend b).buf = s.buf := rfl
@[simp] theorem State.markSend_turns (s : State) (b : Bool) : (s.markSend b).turns = s.turns := rfl
@[simp] theorem State.markSend_actions (s : State) (b : Bool) : (s.markSend b).actions = s.actions := rfl
@[simp] theorem State.markSend_reply (s : State) (b : Bool) : (s.markSend b).reply = s.reply := rfl
@[simp] theorem State.markSend_draws (s : State) (b : Bool) : (s.markSend b).draws = s.draws := rfl
@[simp] theorem State.markSend_ctrl (s : State) (b : Bool) :
    (s.markSend b).ctrl = { s.ctrl with sendMarks := s.ctrl.sendMarks ++ [b] } := rfl

/-! ### respond -/

@[simp] theorem State.respond_state (s : State) (r : Resp) : (s.respond r).state = s.state := rfl
@[simp] theorem State.respond_result (s : State) (r : Resp) : (s.respond r).result = s.result := rfl
@[simp] theorem State.respond_cursor (s : State) (r : Resp) : (s.respond r).cursor = s.cursor := rfl
@[simp] theorem State.respond_dlen (s : State) (r : Resp) : (s.respond r).dlen = s.dlen := rfl
@[simp] theorem State.respond_dir (s : State) (r : Resp) : (s.respond r).dir = s.dir := rfl
@[simp] theorem State.respond_ackArmed (s : State) (r : Resp) : (s.respond r).ackArmed = s.ackArmed := rfl
@[simp] theorem State.respond_cfgDiv (s : State) (r : Resp) : (s.respond r).cfgDiv = s.cfgDiv := rfl
@[simp] theorem State.respond_cfgPresc (s : State) (r : Resp) : (s.respond r).cfgPresc = s.cfgPresc := rfl
@[simp] theorem State.respond_cfgValid (s : State) (r : Resp) : (s.respond r).cfgValid = s.cfgValid := rfl
@[simp] theorem State.respond_stray (s : State) (r : Resp) : (s.respond r).stray = s.stray := rfl
@[simp] theorem State.respond_lastResp (s : State) (r : Resp) : (s.respond r).lastResp = r := rfl
@[simp] theorem State.respond_buf (s : State) (r : Resp) : (s.respond r).buf = s.buf := rfl
@[simp] theorem State.respond_turns (s : State) (r : Resp) : (s.respond r).turns = s.turns := rfl
@[simp] theorem State.respond_actions (s : State) (r : Resp) : (s.respond r).actions = s.actions := rfl
@[simp] theorem State.respond_reply (s : State) (r : Resp) : (s.respond r).reply = some (.response r) := rfl
@[simp] theorem State.respond_ctrl (s : State) (r : Resp) : (s.respond r).ctrl = s.ctrl := rfl
@[simp] theorem State.respond_draws (s : State) (r : Resp) : (s.respond r).draws = s.draws := rfl

/-! ### abort -/

@[simp] theorem State.abort_state (s : State) (r : Result) : (s.abort r).state = .failed := rfl
@[simp] theorem State.abort_result (s : State) (r : Result) : (s.abort r).result = r := rfl
@[simp] theorem State.abort_cursor (s : State) (r : Result) : (s.abort r).cursor = 0 := rfl
@[simp] theorem State.abort_dlen (s : State) (r : Result) : (s.abort r).dlen = s.dlen := rfl
@[simp] theorem State.abort_dir (s : State) (r : Result) : (s.abort r).dir = s.dir := rfl
@[simp] theorem State.abort_ackArmed (s : State) (r : Result) : (s.abort r).ackArmed = false := rfl
@[simp] theorem State.abort_cfgDiv (s : State) (r : Result) : (s.abort r).cfgDiv = s.cfgDiv := rfl
@[simp] theorem State.abort_cfgPresc (s : State) (r : Result) : (s.abort r).cfgPresc = s.cfgPresc := rfl
@[simp] theorem State.abort_cfgValid (s : State) (r : Result) : (s.abort r).cfgValid = s.cfgValid := rfl
@[simp] theorem State.abort_stray (s : State) (r : Result) : (s.abort r).stray = s.stray := rfl
@[simp] theorem State.abort_lastResp (s : State) (r : Result) : (s.abort r).lastResp = s.lastResp := rfl
@[simp] theorem State.abort_buf (s : State) (r : Result) : (s.abort r).buf = s.buf := rfl
@[simp] theorem State.abort_turns (s : State) (r : Result) : (s.abort r).turns = s.turns := rfl
@[simp] theorem State.abort_actions (s : State) (r : Result) : (s.abort r).actions = s.actions ++ [(Action.reinit s.cfgDiv s.cfgPresc).word] := rfl
@[simp] theorem State.abort_reply (s : State) (r : Result) : (s.abort r).reply = s.reply := rfl
@[simp] theorem State.abort_ctrl (s : State) (r : Result) : (s.abort r).ctrl = s.ctrl := rfl
@[simp] theorem State.abort_draws (s : State) (r : Result) : (s.abort r).draws = s.draws := rfl

/-! ### retire -/

@[simp] theorem State.retire_state (s : State) : (s.retire).state = .idle := rfl
@[simp] theorem State.retire_result (s : State) : (s.retire).result = .none := rfl
@[simp] theorem State.retire_cursor (s : State) : (s.retire).cursor = s.cursor := rfl
@[simp] theorem State.retire_dlen (s : State) : (s.retire).dlen = s.dlen := rfl
@[simp] theorem State.retire_dir (s : State) : (s.retire).dir = s.dir := rfl
@[simp] theorem State.retire_ackArmed (s : State) : (s.retire).ackArmed = s.ackArmed := rfl
@[simp] theorem State.retire_cfgDiv (s : State) : (s.retire).cfgDiv = s.cfgDiv := rfl
@[simp] theorem State.retire_cfgPresc (s : State) : (s.retire).cfgPresc = s.cfgPresc := rfl
@[simp] theorem State.retire_cfgValid (s : State) : (s.retire).cfgValid = s.cfgValid := rfl
@[simp] theorem State.retire_stray (s : State) : (s.retire).stray = s.stray := rfl
@[simp] theorem State.retire_lastResp (s : State) : (s.retire).lastResp = s.lastResp := rfl
@[simp] theorem State.retire_buf (s : State) : (s.retire).buf = s.buf := rfl
@[simp] theorem State.retire_turns (s : State) : (s.retire).turns = s.turns := rfl
@[simp] theorem State.retire_actions (s : State) : (s.retire).actions = s.actions := rfl
@[simp] theorem State.retire_reply (s : State) : (s.retire).reply = s.reply := rfl
@[simp] theorem State.retire_ctrl (s : State) : (s.retire).ctrl = s.ctrl := rfl
@[simp] theorem State.retire_draws (s : State) : (s.retire).draws = s.draws := rfl

/-! ### begin -/

@[simp] theorem State.begin_state (s : State) : (s.begin).state = .address := rfl
@[simp] theorem State.begin_result (s : State) : (s.begin).result = .none := rfl
@[simp] theorem State.begin_cursor (s : State) : (s.begin).cursor = s.cursor := rfl
@[simp] theorem State.begin_dlen (s : State) : (s.begin).dlen = s.dlen := rfl
@[simp] theorem State.begin_dir (s : State) : (s.begin).dir = s.dir := rfl
@[simp] theorem State.begin_ackArmed (s : State) : (s.begin).ackArmed = false := rfl
@[simp] theorem State.begin_cfgDiv (s : State) : (s.begin).cfgDiv = s.cfgDiv := rfl
@[simp] theorem State.begin_cfgPresc (s : State) : (s.begin).cfgPresc = s.cfgPresc := rfl
@[simp] theorem State.begin_cfgValid (s : State) : (s.begin).cfgValid = s.cfgValid := rfl
@[simp] theorem State.begin_stray (s : State) : (s.begin).stray = s.stray := rfl
@[simp] theorem State.begin_lastResp (s : State) : (s.begin).lastResp = s.lastResp := rfl
@[simp] theorem State.begin_buf (s : State) : (s.begin).buf = s.buf := rfl
@[simp] theorem State.begin_turns (s : State) : (s.begin).turns = s.turns := rfl
@[simp] theorem State.begin_actions (s : State) : (s.begin).actions = s.actions ++ [Action.start.word] := rfl
@[simp] theorem State.begin_reply (s : State) : (s.begin).reply = s.reply := rfl
@[simp] theorem State.begin_ctrl (s : State) : (s.begin).ctrl = s.ctrl := rfl
@[simp] theorem State.begin_draws (s : State) : (s.begin).draws = s.draws := rfl

/-! ### complete -/

@[simp] theorem State.complete_state (s : State) : (s.complete).state = .completing := rfl
@[simp] theorem State.complete_result (s : State) : (s.complete).result = .ok := rfl
@[simp] theorem State.complete_cursor (s : State) : (s.complete).cursor = s.cursor := rfl
@[simp] theorem State.complete_dlen (s : State) : (s.complete).dlen = s.dlen := rfl
@[simp] theorem State.complete_dir (s : State) : (s.complete).dir = s.dir := rfl
@[simp] theorem State.complete_ackArmed (s : State) : (s.complete).ackArmed = s.ackArmed := rfl
@[simp] theorem State.complete_cfgDiv (s : State) : (s.complete).cfgDiv = s.cfgDiv := rfl
@[simp] theorem State.complete_cfgPresc (s : State) : (s.complete).cfgPresc = s.cfgPresc := rfl
@[simp] theorem State.complete_cfgValid (s : State) : (s.complete).cfgValid = s.cfgValid := rfl
@[simp] theorem State.complete_stray (s : State) : (s.complete).stray = s.stray := rfl
@[simp] theorem State.complete_lastResp (s : State) : (s.complete).lastResp = s.lastResp := rfl
@[simp] theorem State.complete_buf (s : State) : (s.complete).buf = s.buf := rfl
@[simp] theorem State.complete_turns (s : State) : (s.complete).turns = s.turns := rfl
@[simp] theorem State.complete_actions (s : State) : (s.complete).actions = s.actions ++ [Action.stop.word] := rfl
@[simp] theorem State.complete_reply (s : State) : (s.complete).reply = s.reply := rfl
@[simp] theorem State.complete_ctrl (s : State) : (s.complete).ctrl = s.ctrl := rfl
@[simp] theorem State.complete_draws (s : State) : (s.complete).draws = s.draws := rfl

/-! ### strayEvent -/

@[simp] theorem State.strayEvent_state (s : State) : (s.strayEvent).state = s.state := rfl
@[simp] theorem State.strayEvent_result (s : State) : (s.strayEvent).result = s.result := rfl
@[simp] theorem State.strayEvent_cursor (s : State) : (s.strayEvent).cursor = s.cursor := rfl
@[simp] theorem State.strayEvent_dlen (s : State) : (s.strayEvent).dlen = s.dlen := rfl
@[simp] theorem State.strayEvent_dir (s : State) : (s.strayEvent).dir = s.dir := rfl
@[simp] theorem State.strayEvent_ackArmed (s : State) : (s.strayEvent).ackArmed = false := rfl
@[simp] theorem State.strayEvent_cfgDiv (s : State) : (s.strayEvent).cfgDiv = s.cfgDiv := rfl
@[simp] theorem State.strayEvent_cfgPresc (s : State) : (s.strayEvent).cfgPresc = s.cfgPresc := rfl
@[simp] theorem State.strayEvent_cfgValid (s : State) : (s.strayEvent).cfgValid = s.cfgValid := rfl
@[simp] theorem State.strayEvent_stray (s : State) : (s.strayEvent).stray = true := rfl
@[simp] theorem State.strayEvent_lastResp (s : State) : (s.strayEvent).lastResp = s.lastResp := rfl
@[simp] theorem State.strayEvent_buf (s : State) : (s.strayEvent).buf = s.buf := rfl
@[simp] theorem State.strayEvent_turns (s : State) : (s.strayEvent).turns = s.turns := rfl
@[simp] theorem State.strayEvent_actions (s : State) : (s.strayEvent).actions = s.actions ++ [(Action.reinit s.cfgDiv s.cfgPresc).word] := rfl
@[simp] theorem State.strayEvent_reply (s : State) : (s.strayEvent).reply = s.reply := rfl
@[simp] theorem State.strayEvent_ctrl (s : State) : (s.strayEvent).ctrl = s.ctrl := rfl
@[simp] theorem State.strayEvent_draws (s : State) : (s.strayEvent).draws = s.draws := rfl

/-! ### reported -/

@[simp] theorem State.reported_state (s : State) (c : BusEvent) (st d : Byte) : (s.reported c st d).state = s.state := rfl
@[simp] theorem State.reported_result (s : State) (c : BusEvent) (st d : Byte) : (s.reported c st d).result = s.result := rfl
@[simp] theorem State.reported_cursor (s : State) (c : BusEvent) (st d : Byte) : (s.reported c st d).cursor = s.cursor := rfl
@[simp] theorem State.reported_dlen (s : State) (c : BusEvent) (st d : Byte) : (s.reported c st d).dlen = s.dlen := rfl
@[simp] theorem State.reported_dir (s : State) (c : BusEvent) (st d : Byte) : (s.reported c st d).dir = s.dir := rfl
@[simp] theorem State.reported_ackArmed (s : State) (c : BusEvent) (st d : Byte) : (s.reported c st d).ackArmed = s.ackArmed := rfl
@[simp] theorem State.reported_cfgDiv (s : State) (c : BusEvent) (st d : Byte) : (s.reported c st d).cfgDiv = s.cfgDiv := rfl
@[simp] theorem State.reported_cfgPresc (s : State) (c : BusEvent) (st d : Byte) : (s.reported c st d).cfgPresc = s.cfgPresc := rfl
@[simp] theorem State.reported_cfgValid (s : State) (c : BusEvent) (st d : Byte) : (s.reported c st d).cfgValid = s.cfgValid := rfl
@[simp] theorem State.reported_stray (s : State) (c : BusEvent) (st d : Byte) : (s.reported c st d).stray = s.stray := rfl
@[simp] theorem State.reported_lastResp (s : State) (c : BusEvent) (st d : Byte) : (s.reported c st d).lastResp = s.lastResp := rfl
@[simp] theorem State.reported_buf (s : State) (c : BusEvent) (st d : Byte) : (s.reported c st d).buf = s.buf := rfl
@[simp] theorem State.reported_turns (s : State) (c : BusEvent) (st d : Byte) : (s.reported c st d).turns = s.turns := rfl
@[simp] theorem State.reported_actions (s : State) (c : BusEvent) (st d : Byte) : (s.reported c st d).actions = s.actions := rfl
@[simp] theorem State.reported_reply (s : State) (c : BusEvent) (st d : Byte) : (s.reported c st d).reply = s.reply := rfl
@[simp] theorem State.reported_draws (s : State) (c : BusEvent) (st d : Byte) : (s.reported c st d).draws = s.draws := rfl

/-! ### answer -/

@[simp] theorem State.answer_state (s : State) (w : ReadWord) : (s.answer w).state = s.state := rfl
@[simp] theorem State.answer_result (s : State) (w : ReadWord) : (s.answer w).result = s.result := rfl
@[simp] theorem State.answer_cursor (s : State) (w : ReadWord) : (s.answer w).cursor = s.cursor := rfl
@[simp] theorem State.answer_dlen (s : State) (w : ReadWord) : (s.answer w).dlen = s.dlen := rfl
@[simp] theorem State.answer_dir (s : State) (w : ReadWord) : (s.answer w).dir = s.dir := rfl
@[simp] theorem State.answer_ackArmed (s : State) (w : ReadWord) : (s.answer w).ackArmed = s.ackArmed := rfl
@[simp] theorem State.answer_cfgDiv (s : State) (w : ReadWord) : (s.answer w).cfgDiv = s.cfgDiv := rfl
@[simp] theorem State.answer_cfgPresc (s : State) (w : ReadWord) : (s.answer w).cfgPresc = s.cfgPresc := rfl
@[simp] theorem State.answer_cfgValid (s : State) (w : ReadWord) : (s.answer w).cfgValid = s.cfgValid := rfl
@[simp] theorem State.answer_stray (s : State) (w : ReadWord) : (s.answer w).stray = s.stray := rfl
@[simp] theorem State.answer_lastResp (s : State) (w : ReadWord) : (s.answer w).lastResp = s.lastResp := rfl
@[simp] theorem State.answer_buf (s : State) (w : ReadWord) : (s.answer w).buf = s.buf := rfl
@[simp] theorem State.answer_turns (s : State) (w : ReadWord) : (s.answer w).turns = s.turns := rfl
@[simp] theorem State.answer_actions (s : State) (w : ReadWord) : (s.answer w).actions = s.actions := rfl
@[simp] theorem State.answer_reply (s : State) (w : ReadWord) : (s.answer w).reply = some (.word w) := rfl
@[simp] theorem State.answer_ctrl (s : State) (w : ReadWord) : (s.answer w).ctrl = s.ctrl := rfl
@[simp] theorem State.answer_draws (s : State) (w : ReadWord) : (s.answer w).draws = s.draws := rfl

/-! ### take -/

@[simp] theorem State.take_state (s : State) (us : List Turn) : (s.take us).state = s.state := rfl
@[simp] theorem State.take_result (s : State) (us : List Turn) : (s.take us).result = s.result := rfl
@[simp] theorem State.take_cursor (s : State) (us : List Turn) : (s.take us).cursor = s.cursor := rfl
@[simp] theorem State.take_dlen (s : State) (us : List Turn) : (s.take us).dlen = s.dlen := rfl
@[simp] theorem State.take_dir (s : State) (us : List Turn) : (s.take us).dir = s.dir := rfl
@[simp] theorem State.take_ackArmed (s : State) (us : List Turn) : (s.take us).ackArmed = s.ackArmed := rfl
@[simp] theorem State.take_cfgDiv (s : State) (us : List Turn) : (s.take us).cfgDiv = s.cfgDiv := rfl
@[simp] theorem State.take_cfgPresc (s : State) (us : List Turn) : (s.take us).cfgPresc = s.cfgPresc := rfl
@[simp] theorem State.take_cfgValid (s : State) (us : List Turn) : (s.take us).cfgValid = s.cfgValid := rfl
@[simp] theorem State.take_stray (s : State) (us : List Turn) : (s.take us).stray = s.stray := rfl
@[simp] theorem State.take_lastResp (s : State) (us : List Turn) : (s.take us).lastResp = s.lastResp := rfl
@[simp] theorem State.take_buf (s : State) (us : List Turn) : (s.take us).buf = s.buf := rfl
@[simp] theorem State.take_turns (s : State) (us : List Turn) : (s.take us).turns = us := rfl
@[simp] theorem State.take_actions (s : State) (us : List Turn) : (s.take us).actions = s.actions := rfl
@[simp] theorem State.take_reply (s : State) (us : List Turn) : (s.take us).reply = none := rfl
@[simp] theorem State.take_ctrl (s : State) (us : List Turn) : (s.take us).ctrl = s.ctrl := rfl
@[simp] theorem State.take_draws (s : State) (us : List Turn) : (s.take us).draws = s.draws := rfl

end Sys2Proof.Machine
end

