-- ==== Sys2Proof/Laws/Ops.lean ====
section
/-! SUPPORT. One lemma for each shared operation that says everything it can do: what it answers where it is known, and
an inversion lemma (if it answers `next t`, then …) which later proofs cite in its place. -/

namespace Sys2Proof.Machine

/-! ### Registers -/

@[simp] theorem reg9_toNat (n : Nat) : (reg9 n).toNat = n % 512 := by simp [reg9]

theorem reg9_succ (v : BitVec 9) : reg9 (v.toNat + 1) = v + 1 := by
  apply BitVec.eq_of_toNat_eq; simp [BitVec.toNat_add]

@[simp] theorem State.reg9_cur_succ (s : State) : reg9 (s.cur + 1) = s.cursor + 1 := reg9_succ s.cursor

theorem State.busy_iff (s : State) :
    s.busy = true ↔ s.state = .address ∨ s.state = .dataTx ∨ s.state = .dataRx := by
  cases h : s.state <;> simp [State.busy, h]

theorem State.not_busy_iff (s : State) :
    s.busy = false ↔ s.state = .idle ∨ s.state = .completing ∨ s.state = .failed := by
  cases h : s.state <;> simp [State.busy, h]

@[simp] theorem State.legal_reported (s : State) (c d : BusEvent) (st b : Byte) :
    (s.reported c st b).legal d = s.legal d := rfl

@[simp] theorem State.cur_reported (s : State) (c : BusEvent) (st b : Byte) : (s.reported c st b).cur = s.cur := rfl

@[simp] theorem State.len_reported (s : State) (c : BusEvent) (st b : Byte) : (s.reported c st b).len = s.len := rfl

@[simp] theorem State.remaining_reported (s : State) (c : BusEvent) (st b : Byte) :
    (s.reported c st b).remaining = s.remaining := rfl

@[simp] theorem State.busy_reported (s : State) (c : BusEvent) (st b : Byte) :
    (s.reported c st b).busy = s.busy := rfl

@[simp] theorem State.cur_markSend (s : State) (b : Bool) : (s.markSend b).cur = s.cur := rfl

@[simp] theorem State.len_markSend (s : State) (b : Bool) : (s.markSend b).len = s.len := rfl

@[simp] theorem State.busy_markSend (s : State) (b : Bool) : (s.markSend b).busy = s.busy := rfl

@[simp] theorem State.cur_take (s : State) (us : List Turn) : (s.take us).cur = s.cur := rfl

@[simp] theorem State.len_take (s : State) (us : List Turn) : (s.take us).len = s.len := rfl

@[simp] theorem State.remaining_take (s : State) (us : List Turn) : (s.take us).remaining = s.remaining := rfl

@[simp] theorem State.busy_take (s : State) (us : List Turn) : (s.take us).busy = s.busy := rfl

@[simp] theorem State.legal_take (s : State) (us : List Turn) (c : BusEvent) : (s.take us).legal c = s.legal c := rfl

@[simp] theorem State.outsideSpec_take (s : State) (us : List Turn) (ok : ClockOk) :
    (s.take us).outsideSpec ok = s.outsideSpec ok := rfl

/-! ### The buffer -/

theorem State.bufRead_written (cap : Nat) (s : State) (i : Nat) (b : Byte) (hi : i < cap) (h : s.buf.get? i = some b) :
    s.bufRead cap i = .ok (b, s) := by
  simp [State.bufRead, hi, h]

theorem State.bufRead_unwritten (cap : Nat) (s : State) (i : Nat) (hi : i < cap) (h : s.buf.get? i = none) :
    s.bufRead cap i = .ok (Config.freeByte s.draws, { s with draws := s.draws + 1 }) := by
  simp [State.bufRead, hi, h]

theorem State.bufRead_outside (cap : Nat) (s : State) (i : Nat) (hi : cap ≤ i) :
    s.bufRead cap i = .error (.noSuchCell i) := by
  simp [State.bufRead, Nat.not_lt.mpr hi]

/-- All that BufRead can do: it gives the written byte and changes nothing, or a draw and counts it. -/
theorem State.bufRead_cases {cap : Nat} {s t : State} {i : Nat} {b : Byte} (h : s.bufRead cap i = .ok (b, t)) :
    i < cap ∧ ((s.buf.get? i = some b ∧ t = s) ∨
      (s.buf.get? i = none ∧ b = Config.freeByte s.draws ∧ t = { s with draws := s.draws + 1 })) := by
  by_cases hi : i < cap
  · cases hb : s.buf.get? i with
    | some v => rw [s.bufRead_written cap i v hi hb] at h; cases h; exact ⟨hi, .inl ⟨rfl, rfl⟩⟩
    | none => rw [s.bufRead_unwritten cap i hi hb] at h; cases h; exact ⟨hi, .inr ⟨rfl, rfl, rfl⟩⟩
  · rw [s.bufRead_outside cap i (Nat.not_lt.mp hi)] at h; cases h

theorem State.bufWrite_inside (cap : Nat) (s : State) (i : Nat) (v : Byte) (hi : i < cap) :
    s.bufWrite cap i v = .ok { s with buf := s.buf.put i v } := by
  simp [State.bufWrite, hi]

theorem State.bufWrite_cases {cap : Nat} {s t : State} {i : Nat} {v : Byte} (h : s.bufWrite cap i v = .ok t) :
    i < cap ∧ t = { s with buf := s.buf.put i v } := by
  unfold State.bufWrite at h
  split at h
  · cases h; exact ⟨‹_›, rfl⟩
  · cases h

/-! ### Sending -/

theorem State.sendThen_written (cap : Nat) (s : State) (p : Phase) (b : Byte) (hi : s.cur < cap)
    (h : s.buf.get? s.cur = some b) :
    s.sendThen cap p = .next { s with
      actions := s.actions ++ [(Action.send b).word], cursor := s.cursor + 1, state := p } := by
  simp [State.sendThen, State.sendNext, s.bufRead_written cap _ b hi h, State.emit]

theorem State.sendThen_unwritten (cap : Nat) (s : State) (p : Phase) (hi : s.cur < cap) (h : s.buf.get? s.cur = none) :
    s.sendThen cap p = .next { s with
      actions := s.actions ++ [(Action.send (Config.freeByte s.draws)).word], cursor := s.cursor + 1, state := p,
      draws := s.draws + 1 } := by
  simp [State.sendThen, State.sendNext, s.bufRead_unwritten cap _ hi h, State.emit]

/-- All that a send can do: it emits one SEND, advances the cursor, and may count a draw. -/
theorem State.sendThen_cases {cap : Nat} {s t : State} {p : Phase} (h : s.sendThen cap p = .next t) :
    s.cur < cap ∧ ∃ b n, t = { s with
      actions := s.actions ++ [(Action.send b).word], cursor := s.cursor + 1, state := p, draws := n } := by
  by_cases hi : s.cur < cap
  · cases hb : s.buf.get? s.cur with
    | some b => rw [s.sendThen_written cap p b hi hb] at h; cases h; exact ⟨hi, b, _, rfl⟩
    | none => rw [s.sendThen_unwritten cap p hi hb] at h; cases h; exact ⟨hi, _, _, rfl⟩
  · simp [State.sendThen, State.sendNext, s.bufRead_outside cap _ (Nat.not_lt.mp hi)] at h

/-- A send inside the buffer always answers. -/
theorem State.sendThen_answers (cap : Nat) (s : State) (p : Phase) (hi : s.cur < cap) : ∃ t, s.sendThen cap p = .next t := by
  cases hb : s.buf.get? s.cur with
  | some b => exact ⟨_, s.sendThen_written cap p b hi hb⟩
  | none => exact ⟨_, s.sendThen_unwritten cap p hi hb⟩

/-! ### Action words -/

/-- Which action words are SENDs. -/
@[simp] theorem isSendWord_word (a : Action) : isSendWord a.word = (match a with
    | .send _ => true
    | .init _ _ => false
    | .start => false
    | .armAck => false
    | .armNack => false
    | .stop => false
    | .reinit _ _ => false) := by
  have kind (a : Action) (k : BitVec 16) (h : a.word >>> 12 = k) : isSendWord a.word = (k == 3) := by
    rw [isSendWord, h]
  cases a
  case send b => exact kind _ 3 (by ext i hi; interval_cases i <;> simp [Action.word])
  case init d c => exact kind _ 1 (by ext i hi; interval_cases i <;> simp [Action.word])
  case reinit d c => exact kind _ 7 (by ext i hi; interval_cases i <;> simp [Action.word])
  all_goals rfl

/-! ### The rules of the event categories -/

theorem startRule_written (cap : Nat) (s : State) (b : Byte) (hc : 0 < cap) (h : s.buf.get? 0 = some b) :
    startRule cap s = .next { s.markSend true with
      actions := s.actions ++ [(Action.send b).word], cursor := 1, state := .address } :=
  State.sendThen_written cap (({ s with cursor := 0 } : State).markSend true) .address b hc h

theorem startRule_unwritten (cap : Nat) (s : State) (hc : 0 < cap) (h : s.buf.get? 0 = none) :
    startRule cap s = .next { s.markSend true with
      actions := s.actions ++ [(Action.send (Config.freeByte s.draws)).word], cursor := 1, state := .address,
      draws := s.draws + 1 } :=
  State.sendThen_unwritten cap (({ s with cursor := 0 } : State).markSend true) .address hc h

theorem startRule_cases {cap : Nat} {s t : State} (h : startRule cap s = .next t) :
    ∃ b n, t = { s.markSend true with
      actions := s.actions ++ [(Action.send b).word], cursor := 1, state := .address, draws := n } := by
  obtain ⟨-, b, n, rfl⟩ := State.sendThen_cases h
  exact ⟨b, n, rfl⟩

theorem transmitRule_written (cap : Nat) (s : State) (b : Byte) (hl : s.cur < s.len) (hc : s.cur < cap)
    (h : s.buf.get? s.cur = some b) :
    transmitRule cap s = .next { s.markSend false with
      actions := s.actions ++ [(Action.send b).word], cursor := s.cursor + 1, state := .dataTx } := by
  rw [transmitRule, if_pos hl]; exact State.sendThen_written cap (s.markSend false) .dataTx b hc h

theorem transmitRule_unwritten (cap : Nat) (s : State) (hl : s.cur < s.len) (hc : s.cur < cap)
    (h : s.buf.get? s.cur = none) :
    transmitRule cap s = .next { s.markSend false with
      actions := s.actions ++ [(Action.send (Config.freeByte s.draws)).word], cursor := s.cursor + 1, state := .dataTx,
      draws := s.draws + 1 } := by
  rw [transmitRule, if_pos hl]; exact State.sendThen_unwritten cap (s.markSend false) .dataTx hc h

theorem transmitRule_done (cap : Nat) (s : State) (hl : s.len ≤ s.cur) : transmitRule cap s = .next s.complete := by
  rw [transmitRule, if_neg (Nat.not_lt.mpr hl)]

theorem transmitRule_cases {cap : Nat} {s t : State} (h : transmitRule cap s = .next t) :
    (s.cur < s.len ∧ s.cur < cap ∧ ∃ b n, t = { s.markSend false with
        actions := s.actions ++ [(Action.send b).word], cursor := s.cursor + 1, state := .dataTx, draws := n }) ∨
      (s.len ≤ s.cur ∧ t = s.complete) := by
  unfold transmitRule at h
  split at h
  · exact .inl ⟨‹_›, State.sendThen_cases h⟩
  · cases h; exact .inr ⟨Nat.not_lt.mp ‹_›, rfl⟩

theorem State.ackDecide_eq (s : State) :
    s.ackDecide = { s with
      ackArmed := decide (1 < s.remaining),
      actions := s.actions ++ [if 1 < s.remaining then Action.armAck.word else Action.armNack.word] } := by
  unfold State.ackDecide
  split <;> simp [State.emit, *]

theorem receiveRule_cases {cap : Nat} {s t : State} {d : Byte} (h : receiveRule cap d s = .next t) :
    s.cur < cap ∧
      t = ({ s with buf := s.buf.put s.cur d, cursor := s.cursor + 1 } : State).ackDecide := by
  unfold receiveRule at h
  split at h
  · obtain ⟨hi, rfl⟩ := State.bufWrite_cases ‹_›
    cases h; exact ⟨hi, by simp⟩
  · cases h

theorem receiveRule_inside (cap : Nat) (s : State) (d : Byte) (hi : s.cur < cap) :
    receiveRule cap d s = .next ({ s with buf := s.buf.put s.cur d, cursor := s.cursor + 1 } : State).ackDecide := by
  simp [receiveRule, s.bufWrite_inside cap _ d hi]

theorem receiveLastRule_inside (cap : Nat) (s : State) (d : Byte) (hi : s.cur < cap) :
    receiveLastRule cap d s = .next ({ s with buf := s.buf.put s.cur d, dlen := s.cursor + 1 } : State).complete := by
  simp [receiveLastRule, s.bufWrite_inside cap _ d hi]

theorem receiveLastRule_cases {cap : Nat} {s t : State} {d : Byte} (h : receiveLastRule cap d s = .next t) :
    s.cur < cap ∧
      t = ({ s with buf := s.buf.put s.cur d, dlen := s.cursor + 1 } : State).complete := by
  by_cases hi : s.cur < cap
  · rw [receiveLastRule_inside cap s d hi] at h; cases h; exact ⟨hi, rfl⟩
  · simp [receiveLastRule, State.bufWrite, hi] at h

/-! ### The shapes of a step -/

/-- All that an event step can do. -/
theorem onEvent_cases {c : BusEvent} {st d : Byte} {rule : State → Out} {s t : State}
    (h : onEvent c st d rule s = .next t) :
    (s.busy = false ∧ t = (s.reported c st d).strayEvent) ∨
      (s.busy = true ∧ s.legal c = false ∧ t = (s.reported c st d).abort .unknownStatus) ∨
      (s.busy = true ∧ s.legal c = true ∧ rule (s.reported c st d) = .next t) := by
  unfold onEvent at h
  cases hb : s.busy
  · simp [hb] at h; exact .inl ⟨rfl, h.symm⟩
  · cases hl : s.legal c
    · simp [hb, hl] at h; exact .inr (.inl ⟨rfl, rfl, h.symm⟩)
    · simp [hb, hl] at h; exact .inr (.inr ⟨rfl, rfl, h⟩)

theorem onEvent_stray (c : BusEvent) (st d : Byte) (rule : State → Out) (s : State) (h : s.busy = false) :
    onEvent c st d rule s = .next (s.reported c st d).strayEvent := by simp [onEvent, h]

theorem onEvent_illegal (c : BusEvent) (st d : Byte) (rule : State → Out) (s : State) (h : s.busy = true)
    (hl : s.legal c = false) :
    onEvent c st d rule s = .next ((s.reported c st d).abort .unknownStatus) := by simp [onEvent, h, hl]

theorem onEvent_legal (c : BusEvent) (st d : Byte) (rule : State → Out) (s : State) (h : s.busy = true)
    (hl : s.legal c = true) : onEvent c st d rule s = rule (s.reported c st d) := by simp [onEvent, h, hl]

/-- All that a command step can do. -/
theorem onCommand_cases {checks : List (Bool × Resp)} {rule : State → Out} {s t : State}
    (h : onCommand checks rule s = .next t) :
    (∃ r, firstFailed checks = some r ∧ t = s.respond r) ∨ (firstFailed checks = none ∧ rule s = .next t) := by
  unfold onCommand at h
  cases hf : firstFailed checks with
  | some r => simp [hf] at h; exact .inl ⟨r, rfl, h.symm⟩
  | none => simp [hf] at h; exact .inr ⟨rfl, h⟩

/-- A transaction once accepted always starts: index 0 is a cell. -/
theorem startTransaction_eq (cap : Nat) (addr : BitVec 7) (len : Byte) (dir : Dir) (s : State) (hc : 0 < cap) :
    startTransaction cap addr len dir s = .next { s with
      buf := s.buf.put 0 (slaByte addr dir), dlen := reg9 (declaredLength len), cursor := 0, dir := dir,
      ackArmed := false, result := .none, state := .address, actions := s.actions ++ [Action.start.word],
      lastResp := .accepted, reply := some (.response .accepted) } := by
  simp [startTransaction, State.load, s.bufWrite_inside cap 0 _ hc, State.begin, State.emit, State.respond]

/-! ### Parameters -/

@[simp] theorem Config.params_cap : Config.params.cap = Config.cap := rfl
@[simp] theorem Config.params_status : Config.params.status = Config.status := rfl
@[simp] theorem Config.params_clockOk : Config.params.clockOk = Config.clockOk := rfl

/-- `exec` is the case of this model's own parameters. -/
theorem exec_eq (i : Instr) (s : State) : exec i s = execWith Config.params i s := by cases i <;> rfl

theorem execHostRead_eq (a : ReadAddr) (s : State) : execHostRead a s = execHostReadIn Config.cap a s := rfl

/-- So is `step`. -/
theorem step_eq (s : State) : step s = stepWith Config.params s := by
  unfold step stepWith
  cases fetch Config.params s <;> rfl

/-! ### Events as one family -/

/-- The rule of a category in a legal ACTIVE state (R161 to R172). -/
def eventRule (cap : Nat) (c : BusEvent) (d : Byte) : State → Out :=
  match c with
  | .start => startRule cap
  | .repeatedStart => startRule cap
  | .addrAckTx => transmitRule cap
  | .dataAckTx => transmitRule cap
  | .addrAckRx => receiveStartRule
  | .dataAckRx => receiveRule cap d
  | .dataNackRx => receiveLastRule cap d
  | .addrNackTx => abortRule .addressNack
  | .addrNackRx => abortRule .addressNack
  | .dataNackTx => abortRule .dataNack
  | .arbitrationLost => abortRule .arbitrationLost
  | .unknown => abortRule .unknownStatus

theorem execWith_eventInstr (p : Params) (c : BusEvent) (st d : Byte) (s : State) :
    execWith p (eventInstr c st d) s = onEvent c st d (eventRule p.cap c d) s := by cases c <;> rfl

theorem exists_eventInstr {i : Instr} (h : i.isEvent = true) : ∃ c st d, i = eventInstr c st d := by
  cases i <;> simp [Instr.isEvent, encode] at h
  case evStart st d => exact ⟨.start, st, d, rfl⟩
  case evRepeatedStart st d => exact ⟨.repeatedStart, st, d, rfl⟩
  case evAddrAckTx st d => exact ⟨.addrAckTx, st, d, rfl⟩
  case evAddrNackTx st d => exact ⟨.addrNackTx, st, d, rfl⟩
  case evDataAckTx st d => exact ⟨.dataAckTx, st, d, rfl⟩
  case evDataNackTx st d => exact ⟨.dataNackTx, st, d, rfl⟩
  case evArbitrationLost st d => exact ⟨.arbitrationLost, st, d, rfl⟩
  case evAddrAckRx st d => exact ⟨.addrAckRx, st, d, rfl⟩
  case evAddrNackRx st d => exact ⟨.addrNackRx, st, d, rfl⟩
  case evDataAckRx st d => exact ⟨.dataAckRx, st, d, rfl⟩
  case evDataNackRx st d => exact ⟨.dataNackRx, st, d, rfl⟩
  case evUnknown st d => exact ⟨.unknown, st, d, rfl⟩

@[simp] theorem isEvent_eventInstr (c : BusEvent) (st d : Byte) : (eventInstr c st d).isEvent = true := by
  cases c <;> rfl

end Sys2Proof.Machine
end

