-- ==== Sys2Proof/Laws/PerInstr.lean ====
section
/-! SUPPORT. Statements made per instruction: the family TableRow, which says that the word of a well-formed instruction
stands in that instruction's row of spec/opcode_table.json. -/

namespace Sys2Proof.Laws

/-- The category that an event was decoded as has the masked status for its code, unless it is Unknown. -/
theorem code_of_category {p : StatusParams} {status : Byte} {c : BusEvent} (h : p.category status = c)
    (hc : c ≠ .unknown) : p.code c = some (status &&& p.mask) := by
  unfold StatusParams.category at h
  cases hf : namedEvents.find? fun c => p.code c == some (status &&& p.mask) with
  | none => rw [hf] at h; exact absurd h.symm hc
  | some d =>
    rw [hf] at h
    obtain rfl : d = c := h
    simpa using List.find?_some hf

/-- The masked bits of an event word are those of its status. -/
theorem eventWord_masked (status data : Byte) :
    eventWord status data &&& 0xF800#16 = (status &&& 0xF8#8).setWidth 16 <<< 8 := by
  have hm : ∀ k, k < 16 → (0xF800#16).getLsbD k = (!decide (k < 8) && (0xF8#8).getLsbD (k - 8)) := by decide
  apply BitVec.eq_of_getLsbD_eq
  intro i hi
  simp only [eventWord, BitVec.getLsbD_and, BitVec.getLsbD_or, BitVec.getLsbD_shiftLeft, BitVec.getLsbD_setWidth, hm i hi]
  have hd : 8 ≤ i → data.getLsbD i = false := fun h => BitVec.getLsbD_of_ge data i h
  by_cases h8 : i < 8
  · simp [h8]
  · simp [h8, hi, hd (by omega), (by omega : i - 8 < 16)]

namespace TableRow

/-- The word of an instruction that arrives on a port of `n` bits stands in the row with this match and mask. -/
def commandRow (m mask : CommandWord) : PortWord → Prop
  | .command w => w &&& mask = m
  | .event _ => False
  | .timeout => False
  | .action _ => False

/-- As `commandRow`, for a row of 16-bit events. -/
def eventRow (m mask : EventWord) : PortWord → Prop
  | .command _ => False
  | .event w => w &&& mask = m
  | .timeout => False
  | .action _ => False

/-- As `commandRow`, for a row of 16-bit actions. -/
def actionRow (m mask : ActionWord) : PortWord → Prop
  | .command _ => False
  | .event _ => False
  | .timeout => False
  | .action w => w &&& mask = m

/-- The row of the table, by its match and mask; for a catch-all row, what its note says. -/
def Row : Instr → PortWord → Prop
  | .nop => commandRow 0x00000000 0xFFFFFFFF
  | .init _ _ => commandRow 0x10000000 0xFFFFFC00
  | .write _ _ => commandRow 0x20000000 0xFF80FF00
  | .read _ _ => commandRow 0x30000000 0xFF80FF00
  | .retire => commandRow 0x40000000 0xFFFFFFFF
  | .bufwr _ _ => commandRow 0x50000000 0xFFFF0000
  -- "a word matching none of the six rows above"
  | .reservedCmd w => fun p => p = .command w ∧ w.msb = false ∧ isReserved w = true
  | .reservedCmdHi _ => commandRow 0x80000000#32 0x80000000#32
  | .evStart _ _ => eventRow 0x0800 0xF800
  | .evRepeatedStart _ _ => eventRow 0x1000 0xF800
  | .evAddrAckTx _ _ => eventRow 0x1800 0xF800
  | .evAddrNackTx _ _ => eventRow 0x2000 0xF800
  | .evDataAckTx _ _ => eventRow 0x2800 0xF800
  | .evDataNackTx _ _ => eventRow 0x3000 0xF800
  | .evArbitrationLost _ _ => eventRow 0x3800 0xF800
  | .evAddrAckRx _ _ => eventRow 0x4000 0xF800
  | .evAddrNackRx _ _ => eventRow 0x4800 0xF800
  | .evDataAckRx _ _ => eventRow 0x5000 0xF800
  | .evDataNackRx _ _ => eventRow 0x5800 0xF800
  | .evUnknown status data => fun p => p = .event (eventWord status data) ∧
      ∀ c v, avrStatusCode c = some v → status &&& 0xF8 ≠ v
  | .timeout => fun p => p = .timeout
  | .actInit _ _ => actionRow 0x1000 0xFC00
  | .actStart => actionRow 0x2000 0xFFFF
  | .actSend _ => actionRow 0x3000 0xFF00
  | .actArmAck => actionRow 0x4000 0xFFFF
  | .actArmNack => actionRow 0x5000 0xFFFF
  | .actStop => actionRow 0x6000 0xFFFF
  | .actReinit _ _ => actionRow 0x7000 0xFC00

/-- A well-formed instruction's word stands in the instruction's row. -/
def Statement (i : Instr) : Prop := i.wf = true → Row i (encode i)

theorem nop : Statement .nop := fun _ => rfl

/-- Bits of a word outside a field of it. -/
theorem field_masked {n k : Nat} (f : BitVec k) (lo : Nat) (base mask m : BitVec n)
    (hb : base &&& mask = m) (hm : ∀ i, i < n → lo ≤ i → i < lo + k → mask.getLsbD i = false) :
    (base ||| f.setWidth n <<< lo) &&& mask = m := by
  rw [← hb]
  apply BitVec.eq_of_getLsbD_eq
  intro i hi
  simp only [BitVec.getLsbD_and, BitVec.getLsbD_or, BitVec.getLsbD_shiftLeft, BitVec.getLsbD_setWidth]
  by_cases h1 : i < lo
  · simp [h1]
  · by_cases h2 : i < lo + k
    · simp [hm i hi (by omega) h2]
    · simp [BitVec.getLsbD_of_ge f (i - lo) (by omega)]

theorem field_masked_low {n k : Nat} (f : BitVec k) (base mask m : BitVec n)
    (hb : base &&& mask = m) (hm : ∀ i, i < n → i < k → mask.getLsbD i = false) :
    (base ||| f.setWidth n) &&& mask = m := by
  have := field_masked f 0 base mask m hb (fun i h1 _ h3 => hm i h1 (by omega))
  simpa using this

theorem init (div : Byte) (presc : BitVec 2) : Statement (.init div presc) := fun _ =>
  field_masked_low _ _ _ _ (field_masked _ _ _ _ _ (by decide) (by decide)) (by decide)

theorem write (addr : BitVec 7) (len : Byte) : Statement (.write addr len) := fun _ =>
  field_masked_low _ _ _ _ (field_masked _ _ _ _ _ (by decide) (by decide)) (by decide)

theorem read (addr : BitVec 7) (len : Byte) : Statement (.read addr len) := fun _ =>
  field_masked_low _ _ _ _ (field_masked _ _ _ _ _ (by decide) (by decide)) (by decide)

theorem retire : Statement .retire := fun _ => rfl

theorem bufwr (idx data : Byte) : Statement (.bufwr idx data) := fun _ =>
  field_masked_low _ _ _ _ (field_masked _ _ _ _ _ (by decide) (by decide)) (by decide)

theorem reservedCmd (w : CommandWord) : Statement (.reservedCmd w) := by
  intro h
  simp only [Instr.wf, Instr.wfWith, Bool.and_eq_true, Bool.not_eq_true'] at h
  exact ⟨rfl, h.2, h.1⟩

theorem reservedCmdHi (w : CommandWord) : Statement (.reservedCmdHi w) := by
  intro h
  simp only [Instr.wf, Instr.wfWith, Bool.and_eq_true, BitVec.msb_eq_getLsbD_last] at h
  have hm : ∀ k, k < 32 → (0x80000000#32).getLsbD k = decide (k = 31) := by decide
  show w &&& 0x80000000#32 = 0x80000000#32
  apply BitVec.eq_of_getLsbD_eq
  intro i hi
  rw [BitVec.getLsbD_and, hm i hi]
  by_cases h31 : i = 31
  · subst h31; simpa using h.2
  · simp [h31]

/-- The eleven named events in one: the masked status is the category's code. -/
theorem event_row {c : BusEvent} {status v : Byte} (data : Byte) (h : Config.status.statusIs c status = true) (hc : c ≠ .unknown)
    (hv : avrStatusCode c = some v) : eventWord status data &&& 0xF800#16 = v.setWidth 16 <<< 8 := by
  have h1 := code_of_category (by simpa [StatusParams.statusIs] using h) hc
  have h2 : some v = some (status &&& 0xF8#8) := hv.symm.trans h1
  rw [eventWord_masked, ← Option.some.inj h2]

theorem evStart (status data : Byte) : Statement (.evStart status data) := fun h =>
  event_row data h (by decide) rfl

theorem evRepeatedStart (status data : Byte) : Statement (.evRepeatedStart status data) := fun h =>
  event_row data h (by decide) rfl

theorem evAddrAckTx (status data : Byte) : Statement (.evAddrAckTx status data) := fun h =>
  event_row data h (by decide) rfl

theorem evAddrNackTx (status data : Byte) : Statement (.evAddrNackTx status data) := fun h =>
  event_row data h (by decide) rfl

theorem evDataAckTx (status data : Byte) : Statement (.evDataAckTx status data) := fun h =>
  event_row data h (by decide) rfl

theorem evDataNackTx (status data : Byte) : Statement (.evDataNackTx status data) := fun h =>
  event_row data h (by decide) rfl

theorem evArbitrationLost (status data : Byte) : Statement (.evArbitrationLost status data) := fun h =>
  event_row data h (by decide) rfl

theorem evAddrAckRx (status data : Byte) : Statement (.evAddrAckRx status data) := fun h =>
  event_row data h (by decide) rfl

theorem evAddrNackRx (status data : Byte) : Statement (.evAddrNackRx status data) := fun h =>
  event_row data h (by decide) rfl

theorem evDataAckRx (status data : Byte) : Statement (.evDataAckRx status data) := fun h =>
  event_row data h (by decide) rfl

theorem evDataNackRx (status data : Byte) : Statement (.evDataNackRx status data) := fun h =>
  event_row data h (by decide) rfl

theorem evUnknown (status data : Byte) : Statement (.evUnknown status data) := by
  intro h
  refine ⟨rfl, ?_⟩
  have h0 : Config.status.category status = .unknown := by simpa [Instr.wf, Instr.wfWith, StatusParams.statusIs] using h
  unfold StatusParams.category at h0
  cases hf : namedEvents.find? fun c => Config.status.code c == some (status &&& Config.status.mask) with
  | some d =>
    rw [hf] at h0
    obtain rfl : d = .unknown := h0
    exact absurd (List.mem_of_find?_eq_some hf) (by decide)
  | none =>
    intro c v hv he
    have hn : c ∈ namedEvents := by cases c <;> first | decide | cases hv
    have := List.find?_eq_none.mp hf c hn
    simp [Config.status, hv] at this
    exact this he.symm

theorem timeout : Statement .timeout := fun _ => rfl

theorem actInit (div : Byte) (presc : BitVec 2) : Statement (.actInit div presc) := fun _ =>
  field_masked_low _ _ _ _ (field_masked _ _ _ _ _ (by decide) (by decide)) (by decide)

theorem actStart : Statement .actStart := fun _ => rfl

theorem actSend (b : Byte) : Statement (.actSend b) := fun _ =>
  field_masked_low _ _ _ _ (by decide) (by decide)

theorem actArmAck : Statement .actArmAck := fun _ => rfl

theorem actArmNack : Statement .actArmNack := fun _ => rfl

theorem actStop : Statement .actStop := fun _ => rfl

theorem actReinit (div : Byte) (presc : BitVec 2) : Statement (.actReinit div presc) := fun _ =>
  field_masked_low _ _ _ _ (field_masked _ _ _ _ _ (by decide) (by decide)) (by decide)

end TableRow

end Sys2Proof.Laws
end

