-- ==== Sys2Proof/Laws/Steps.lean ====
section
/-! SUPPORT. What a step of each port can do, said once and for all parameters (`exec_eq` and `step_eq` bring a
statement about `exec` and `step` there): the inversion of execWith for events, commands, TIMEOUT, the bus
controller's side and the host read. Whole-machine statements are proved by these cases. -/

namespace Sys2Proof.Machine

/-- Every input belongs to one port. -/
theorem port_cases (i : Instr) :
    i.isCommand = true ∨ i.isEvent = true ∨ i = .timeout ∨ i.isAction = true := by
  cases i <;> simp [Instr.isCommand, Instr.isEvent, Instr.isAction, encode]

theorem not_isEvent_of_isCommand {i : Instr} (h : i.isCommand = true) : i.isEvent = false := by
  cases i <;> simp_all [Instr.isCommand, Instr.isEvent, encode]

theorem not_isAction_of_isCommand {i : Instr} (h : i.isCommand = true) : i.isAction = false := by
  cases i <;> simp_all [Instr.isCommand, Instr.isAction, encode]

theorem not_isEvent_of_isAction {i : Instr} (h : i.isAction = true) : i.isEvent = false := by
  cases i <;> simp_all [Instr.isAction, Instr.isEvent, encode]

theorem not_isCommand_of_isAction {i : Instr} (h : i.isAction = true) : i.isCommand = false := by
  cases i <;> simp_all [Instr.isAction, Instr.isCommand, encode]

theorem not_isCommand_of_isEvent {i : Instr} (h : i.isEvent = true) : i.isCommand = false := by
  cases i <;> simp_all [Instr.isEvent, Instr.isCommand, encode]

theorem not_isAction_of_isEvent {i : Instr} (h : i.isEvent = true) : i.isAction = false := by
  cases i <;> simp_all [Instr.isEvent, Instr.isAction, encode]

/-! ### Events -/

/-- All that a legal event's rule can do: send, stop, decide, store and decide, store and stop, or abort. -/
theorem eventRule_cases {cap : Nat} {c : BusEvent} {d : Byte} {s t : State} (h : eventRule cap c d s = .next t) :
    (∃ b n, (c = .start ∨ c = .repeatedStart) ∧ t = { s.markSend true with
        actions := s.actions ++ [(Action.send b).word], cursor := 1, state := .address, draws := n }) ∨
      (∃ b n, (c = .addrAckTx ∨ c = .dataAckTx) ∧ s.cur < s.len ∧ s.cur < cap ∧ t = { s.markSend false with
        actions := s.actions ++ [(Action.send b).word], cursor := s.cursor + 1, state := .dataTx, draws := n }) ∨
      ((c = .addrAckTx ∨ c = .dataAckTx) ∧ s.len ≤ s.cur ∧ t = s.complete) ∨
      (c = .addrAckRx ∧ t = { s with
        ackArmed := decide (1 < s.remaining), state := .dataRx,
        actions := s.actions ++ [if 1 < s.remaining then Action.armAck.word else Action.armNack.word] }) ∨
      (c = .dataAckRx ∧ s.cur < cap ∧
        t = ({ s with buf := s.buf.put s.cur d, cursor := s.cursor + 1 } : State).ackDecide) ∨
      (c = .dataNackRx ∧ s.cur < cap ∧
        t = ({ s with buf := s.buf.put s.cur d, dlen := s.cursor + 1 } : State).complete) ∨
      ∃ r, r ≠ .none ∧ r ≠ .ok ∧ t = s.abort r := by
  cases c <;> simp only [eventRule] at h
  case start => obtain ⟨b, n, rfl⟩ := startRule_cases h; exact .inl ⟨b, n, .inl rfl, rfl⟩
  case repeatedStart => obtain ⟨b, n, rfl⟩ := startRule_cases h; exact .inl ⟨b, n, .inr rfl, rfl⟩
  case addrAckTx =>
    obtain ⟨h1, h2, b, n, rfl⟩ | ⟨h1, rfl⟩ := transmitRule_cases h
    · exact .inr (.inl ⟨b, n, .inl rfl, h1, h2, rfl⟩)
    · exact .inr (.inr (.inl ⟨.inl rfl, h1, rfl⟩))
  case dataAckTx =>
    obtain ⟨h1, h2, b, n, rfl⟩ | ⟨h1, rfl⟩ := transmitRule_cases h
    · exact .inr (.inl ⟨b, n, .inr rfl, h1, h2, rfl⟩)
    · exact .inr (.inr (.inl ⟨.inr rfl, h1, rfl⟩))
  case addrAckRx =>
    cases h; rw [State.ackDecide_eq]; exact .inr (.inr (.inr (.inl ⟨rfl, rfl⟩)))
  case dataAckRx =>
    obtain ⟨h1, rfl⟩ := receiveRule_cases h
    exact .inr (.inr (.inr (.inr (.inl ⟨rfl, h1, rfl⟩))))
  case dataNackRx =>
    obtain ⟨h1, rfl⟩ := receiveLastRule_cases h
    exact .inr (.inr (.inr (.inr (.inr (.inl ⟨rfl, h1, rfl⟩)))))
  all_goals cases h; exact .inr (.inr (.inr (.inr (.inr (.inr ⟨_, by decide, by decide, rfl⟩)))))

/-- All that an event can do: stray, protocol violation, or its rule. -/
theorem event_cases {p : Params} {c : BusEvent} {st d : Byte} {s t : State} (h : execWith p (eventInstr c st d) s = .next t) :
    (s.busy = false ∧ t = (s.reported c st d).strayEvent) ∨
      (s.busy = true ∧ s.legal c = false ∧ t = (s.reported c st d).abort .unknownStatus) ∨
      (s.busy = true ∧ s.legal c = true ∧ eventRule p.cap c d (s.reported c st d) = .next t) := by
  rw [execWith_eventInstr] at h; exact onEvent_cases h

/-! ### Commands -/

theorem firstFailed_cons_none (b : Bool) (r : Resp) (cs : List (Bool × Resp)) :
    firstFailed ((b, r) :: cs) = none ↔ b = false ∧ firstFailed cs = none := by
  cases b <;> simp [firstFailed]

theorem overflows_eq_false_iff (cap : Nat) (len : Byte) : overflows cap len = false ↔ len.toNat + 1 ≤ cap := by
  simp [overflows, declaredLength]

/-- All that a command can do: respond only, reset, start a transaction, retire, or write a cell. -/
theorem command_cases {p : Params} {i : Instr} {s t : State} (hi : i.isCommand = true) (h : execWith p i s = .next t) :
    ((∀ div presc, i ≠ .init div presc) ∧ ∃ r, t = s.respond r) ∨
      (∃ div presc, i = .init div presc ∧ execInit div presc s = .next t) ∨
      (∃ addr len dir, ((i = .write addr len ∧ dir = .write) ∨ (i = .read addr len ∧ dir = .read ∧ 1 ≤ len.toNat)) ∧
        s.busy = false ∧ s.cfgValid = true ∧ len.toNat + 1 ≤ p.cap ∧
        startTransaction p.cap addr len dir s = .next t) ∨
      (i = .retire ∧ s.busy = false ∧ t = s.retire.respond .accepted) ∨
      (∃ idx data, i = .bufwr idx data ∧ s.busy = false ∧ 1 ≤ idx.toNat ∧ idx.toNat < p.cap ∧
        t = ({ s with buf := s.buf.put idx.toNat data } : State).respond .accepted) := by
  cases i <;> simp only [Instr.isCommand, encode, Bool.false_eq_true] at hi <;> simp only [execWith] at h
  case nop => cases h; exact .inl ⟨by simp, _, rfl⟩
  case reservedCmd => cases h; exact .inl ⟨by simp, _, rfl⟩
  case reservedCmdHi => cases h; exact .inl ⟨by simp, _, rfl⟩
  case init div presc => exact .inr (.inl ⟨div, presc, rfl, h⟩)
  case write addr len =>
    rcases onCommand_cases h with ⟨r, -, rfl⟩ | ⟨hf, h⟩
    · exact .inl ⟨by simp, _, rfl⟩
    · simp only [firstFailed_cons_none, overflows_eq_false_iff, Bool.not_eq_false'] at hf
      exact .inr (.inr (.inl ⟨addr, len, .write, .inl ⟨rfl, rfl⟩, hf.1, hf.2.1, hf.2.2.1, h⟩))
  case read addr len =>
    rcases onCommand_cases h with ⟨r, -, rfl⟩ | ⟨hf, h⟩
    · exact .inl ⟨by simp, _, rfl⟩
    · simp only [firstFailed_cons_none, overflows_eq_false_iff, Bool.not_eq_false',
        beq_eq_false_iff_ne] at hf
      exact .inr (.inr (.inl ⟨addr, len, .read, .inr ⟨rfl, rfl, by omega⟩, hf.1, hf.2.1, hf.2.2.1, h⟩))
  case retire =>
    rcases onCommand_cases h with ⟨r, -, rfl⟩ | ⟨hf, h⟩
    · exact .inl ⟨by simp, _, rfl⟩
    · simp only [firstFailed_cons_none] at hf
      cases h; exact .inr (.inr (.inr (.inl ⟨rfl, hf.1, rfl⟩)))
  case bufwr idx data =>
    rcases onCommand_cases h with ⟨r, -, rfl⟩ | ⟨hf, h⟩
    · exact .inl ⟨by simp, _, rfl⟩
    · simp only [firstFailed_cons_none, badIndex, Bool.or_eq_false_iff, beq_eq_false_iff_ne,
        decide_eq_false_iff_not] at hf
      rw [s.bufWrite_inside p.cap _ data (by omega)] at h
      cases h
      exact .inr (.inr (.inr (.inr ⟨idx, data, rfl, hf.1, by omega, by omega, rfl⟩)))

/-! ### The other ports -/

theorem timeout_cases {p : Params} {s t : State} (h : execWith p .timeout s = .next t) :
    (s.busy = true ∧ t = s.abort .timeout) ∨ (s.busy = false ∧ t = s) := by
  simp only [execWith, execTimeout] at h
  split at h <;> cases h
  · exact .inl ⟨‹_›, rfl⟩
  · exact .inr ⟨by simpa using ‹¬s.busy = true›, rfl⟩

/-- An action word changes the bus controller only. -/
theorem action_cases {p : Params} {i : Instr} {s t : State} (hi : i.isAction = true) (h : execWith p i s = .next t) :
    t = { s with ctrl := t.ctrl, draws := t.draws } := by
  cases i <;> simp [Instr.isAction, encode] at hi <;> cases h <;> rfl

/-- A SEND taken uses up the oldest mark, and no other action word changes the marks. -/
theorem action_marks {p : Params} {w : ActionWord} {i : Instr} {s t : State}
    (hd : decodeWith p.status (.action w) = .ok i) (h : execWith p i s = .next t) :
    t.ctrl.sendMarks = if isSendWord w then s.ctrl.sendMarks.tail else s.ctrl.sendMarks := by
  have hk : isSendWord w = ((field w 12 4).toNat == 3) := by
    have := w.isLt
    rw [Bool.eq_iff_iff, isSendWord, field, beq_iff_eq, beq_iff_eq, ← BitVec.toNat_inj]
    simp [Nat.shiftRight_eq_div_pow]
    omega
  simp only [decodeWith, decodeAction] at hd
  split at hd <;> rename_i hf <;> try split at hd
  all_goals cases hd
  all_goals cases h
  all_goals simp only [hk, hf]
  all_goals rfl

/-- A host read changes the reply port and the count of draws only. -/
theorem hostRead_cases {cap : Nat} {a : ReadAddr} {s t : State} (h : execHostReadIn cap a s = .next t) :
    ∃ w, t = { s with reply := some (.word w), draws := t.draws } := by
  unfold execHostReadIn at h
  repeat' split at h
  all_goals cases h
  all_goals try exact ⟨_, rfl⟩
  obtain ⟨-, ⟨-, rfl⟩ | ⟨-, -, rfl⟩⟩ := State.bufRead_cases ‹_› <;> exact ⟨_, rfl⟩

/-- A host read always answers. -/
theorem hostRead_answers (cap : Nat) (a : ReadAddr) (s : State) : ∃ t, execHostReadIn cap a s = .next t := by
  unfold execHostReadIn
  split <;> [exact ⟨_, rfl⟩; skip]
  split <;> [exact ⟨_, rfl⟩; skip]
  split <;> [exact ⟨_, rfl⟩; skip]
  split <;> [skip; exact ⟨_, rfl⟩]
  rename_i h
  have hi : a.toNat - 0x0100 < cap := by omega
  cases hb : s.buf.get? (a.toNat - 0x0100) with
  | some b => rw [s.bufRead_written cap _ b hi hb]; exact ⟨_, rfl⟩
  | none => rw [s.bufRead_unwritten cap _ hi hb]; exact ⟨_, rfl⟩

/-- Registers that no event writes. -/
theorem event_frame {p : Params} {c : BusEvent} {st d : Byte} {s t : State} (h : execWith p (eventInstr c st d) s = .next t) :
    t.cfgDiv = s.cfgDiv ∧ t.cfgPresc = s.cfgPresc ∧ t.cfgValid = s.cfgValid ∧ t.dir = s.dir ∧
      t.lastResp = s.lastResp ∧ t.reply = s.reply ∧ t.turns = s.turns ∧
      t.stray = (if s.busy then s.stray else true) := by
  rcases event_cases h with ⟨hb, rfl⟩ | ⟨hb, -, rfl⟩ | ⟨hb, -, h⟩ <;> simp only [hb]
  · simp
  · simp
  · rcases eventRule_cases h with ⟨b, n, -, rfl⟩ | ⟨b, n, -, -, -, rfl⟩ | ⟨-, -, rfl⟩ | ⟨-, rfl⟩ | ⟨-, -, rfl⟩ |
      ⟨-, -, rfl⟩ | ⟨r, -, -, rfl⟩ <;> simp [State.ackDecide_eq]

/-- What an event does to the buffer: nothing, or one store at CURSOR in DATA_RX. -/
theorem event_buf {p : Params} {c : BusEvent} {st d : Byte} {s t : State} (h : execWith p (eventInstr c st d) s = .next t) :
    t.buf = s.buf ∨
      ((c = .dataAckRx ∨ c = .dataNackRx) ∧ s.state = .dataRx ∧ t.buf = s.buf.put s.cur d) := by
  rcases event_cases h with ⟨hb, rfl⟩ | ⟨hb, -, rfl⟩ | ⟨hb, hl, h⟩
  · exact .inl rfl
  · exact .inl rfl
  · rcases eventRule_cases h with ⟨b, n, -, rfl⟩ | ⟨b, n, -, -, -, rfl⟩ | ⟨-, -, rfl⟩ | ⟨-, rfl⟩ | ⟨rfl, -, rfl⟩ |
      ⟨rfl, -, rfl⟩ | ⟨r, -, -, rfl⟩
    · exact .inl rfl
    · exact .inl rfl
    · exact .inl rfl
    · exact .inl rfl
    · simp [State.legal] at hl
      exact .inr ⟨.inl rfl, hl.1, by simp [State.ackDecide_eq]⟩
    · simp [State.legal] at hl
      exact .inr ⟨.inr rfl, hl, rfl⟩
    · exact .inl rfl

end Sys2Proof.Machine
end

