-- ==== Sys2Proof/Tests/Slice0.lean ====
section
/-! SUPPORT. The model's own tests: expected values from spec/95_test_vectors.md (section named at each group),
spec/30_encoding.md and the worked examples of the rules; and a witness for the hypotheses of every obligation that has
some. -/

open Sys2Proof Sys2Proof.Machine

namespace Sys2Proof.Tests

/-! ### States of 95_test_vectors.md, sections 3.2 and 3.3 -/

/-- S1 without the two BUFWR: IDLE after `INIT 0x48, 0`. -/
def s1 : State := { State.reset with cfgDiv := 0x48, cfgValid := true }

/-- A write of two bytes to 0x50 in flight. -/
def writing (p : Phase) (cursor : BitVec 9) : State :=
  { s1 with state := p, cursor := cursor, dlen := 3, buf := [(0, 0xA0), (1, 0xAA), (2, 0xBB)] }

def s2 : State := writing .address 0
def s3 : State := writing .address 1
def s4 : State := writing .dataTx 2
def s5 : State := writing .dataTx 3

/-- A read of three bytes from 0x50 in flight. -/
def reading (p : Phase) (cursor : BitVec 9) (armed : Bool) : State :=
  { s1 with state := p, cursor := cursor, dlen := 4, dir := .read, ackArmed := armed, buf := [(0, 0xA1)] }

def s6 : State := reading .address 0 false
def s7 : State := reading .address 1 false
def s8 : State := reading .dataRx 1 true
def s9 : State := { reading .dataRx 3 false with buf := [(0, 0xA1), (1, 0x11), (2, 0x22)] }

def s10 : State := { writing .completing 3 with result := .ok }
def s11 : State := { writing .failed 0 with result := .addressNack }

/-- The end of the three-byte read of P2. -/
def readDone : State :=
  { reading .completing 3 false with result := .ok, buf := [(0, 0xA1), (1, 0x11), (2, 0x22), (3, 0x33)] }

/-- What the test vectors show of an outcome: the status word, the actions and the reply port. -/
def seen : Out → Option (ReadWord × List ActionWord × Option Reply)
  | .next t => some (t.statusWord, t.actions, t.reply)
  | .fault _ => none
  | .refused _ => none

/-- The status word after one input and the actions it emitted. -/
def after (i : Instr) (s : State) : Option (ReadWord × List ActionWord) := (seen (exec i s)).map fun x => (x.1, x.2.1)

/-- The response of one command. -/
def answer (i : Instr) (s : State) : Option Reply := (seen (exec i s)).bind fun x => x.2.2

/-- The byte of a cell after one input. -/
def cell (i : Instr) (s : State) (j : Nat) : Option Byte :=
  match exec i s with
  | .next t => t.buf.get? j
  | .fault _ => none
  | .refused _ => none

/-! ### WellFormed refuses an ill-formed term, one for each check -/

theorem test_wf_reservedCmd_in_a_row : (Instr.reservedCmd 0x20500002).wf = false := by decide
theorem test_wf_reservedCmd_high_bit : (Instr.reservedCmd 0xF0000000).wf = false := by decide
theorem test_wf_reservedCmdHi_low_bit : (Instr.reservedCmdHi 0x60000000).wf = false := by decide
theorem test_wf_evStart : (Instr.evStart 0x10 0).wf = false := by decide
theorem test_wf_evRepeatedStart : (Instr.evRepeatedStart 0x08 0).wf = false := by decide
theorem test_wf_evAddrAckTx : (Instr.evAddrAckTx 0x28 0).wf = false := by decide
theorem test_wf_evAddrNackTx : (Instr.evAddrNackTx 0x18 0).wf = false := by decide
theorem test_wf_evDataAckTx : (Instr.evDataAckTx 0x30 0).wf = false := by decide
theorem test_wf_evDataNackTx : (Instr.evDataNackTx 0x28 0).wf = false := by decide
theorem test_wf_evArbitrationLost : (Instr.evArbitrationLost 0x00 0).wf = false := by decide
theorem test_wf_evAddrAckRx : (Instr.evAddrAckRx 0x48 0).wf = false := by decide
theorem test_wf_evAddrNackRx : (Instr.evAddrNackRx 0x40 0).wf = false := by decide
theorem test_wf_evDataAckRx : (Instr.evDataAckRx 0x58 0).wf = false := by decide
theorem test_wf_evDataNackRx : (Instr.evDataNackRx 0x50 0).wf = false := by decide
theorem test_wf_evUnknown : (Instr.evUnknown 0x0F 0).wf = false := by decide

/-! ### Decoding, word by word (30_encoding.md R90, R97, R103; 95_test_vectors.md 3.1, 3.2, 3.6) -/

theorem test_decode_nop : decodeCommand 0b0000_0000000000000000000000000000 = .nop := by decide
theorem test_decode_init : decodeCommand 0b0001_000000000000000000_11_11111111 = .init 0xFF 3 := by decide
theorem test_decode_init_presc : decodeCommand 0b0001_000000000000000000_01_00100000 = .init 0x20 1 := by decide
theorem test_decode_write : decodeCommand 0b0010_00000_1010000_00000000_00000010 = .write 0x50 2 := by decide
theorem test_decode_read : decodeCommand 0b0011_00000_1111111_00000000_10000000 = .read 0x7F 128 := by decide
theorem test_decode_retire : decodeCommand 0b0100_0000000000000000000000000000 = .retire := by decide
theorem test_decode_bufwr : decodeCommand 0b0101_000000000000_01111111_00110011 = .bufwr 127 0x33 := by decide
theorem test_decode_reserved_init : decodeCommand 0x10000400 = .reservedCmd 0x10000400 := by decide
theorem test_decode_reserved_read : decodeCommand 0x30500100 = .reservedCmd 0x30500100 := by decide
theorem test_decode_reserved_bufwr : decodeCommand 0x5001FF22 = .reservedCmd 0x5001FF22 := by decide
theorem test_decode_reserved_high : decodeCommand 0x80000000 = .reservedCmdHi 0x80000000 := by decide
theorem test_decode_start : decodeEvent 0b00001_111_01011010 = .evStart 0x0F 0x5A := by decide
theorem test_decode_repeatedStart : decodeEvent 0b00010_000_01011010 = .evRepeatedStart 0x10 0x5A := by decide
theorem test_decode_addrAckTx : decodeEvent 0b00011_111_00000000 = .evAddrAckTx 0x1F 0 := by decide
theorem test_decode_addrNackTx : decodeEvent 0b00100_000_01011010 = .evAddrNackTx 0x20 0x5A := by decide
theorem test_decode_dataAckTx : decodeEvent 0b00101_010_00000000 = .evDataAckTx 0x2A 0 := by decide
theorem test_decode_dataNackTx : decodeEvent 0b00110_000_01011010 = .evDataNackTx 0x30 0x5A := by decide
theorem test_decode_arbitrationLost : decodeEvent 0b00111_000_01011010 = .evArbitrationLost 0x38 0x5A := by decide
theorem test_decode_addrAckRx : decodeEvent 0b01000_000_01011010 = .evAddrAckRx 0x40 0x5A := by decide
theorem test_decode_addrNackRx : decodeEvent 0b01001_000_01011010 = .evAddrNackRx 0x48 0x5A := by decide
theorem test_decode_dataAckRx : decodeEvent 0b01010_000_00010001 = .evDataAckRx 0x50 0x11 := by decide
theorem test_decode_dataNackRx : decodeEvent 0b01011_111_00110011 = .evDataNackRx 0x5F 0x33 := by decide
theorem test_decode_unknown_zero : decodeEvent 0x005A = .evUnknown 0x00 0x5A := by decide
theorem test_decode_unknown_ones : decodeEvent 0xFF5A = .evUnknown 0xFF 0x5A := by decide
theorem test_decode_timeout : decode .timeout = .ok .timeout := rfl
theorem test_decode_actInit : decodeAction 0b0001_00_11_11111111 = .ok (.actInit 0xFF 3) := by decide
theorem test_decode_actStart : decodeAction 0b0010_000000000000 = .ok .actStart := by decide
theorem test_decode_actSend : decodeAction 0b0011_0000_10100000 = .ok (.actSend 0xA0) := by decide
theorem test_decode_actArmAck : decodeAction 0b0100_000000000000 = .ok .actArmAck := by decide
theorem test_decode_actArmNack : decodeAction 0b0101_000000000000 = .ok .actArmNack := by decide
theorem test_decode_actStop : decodeAction 0b0110_000000000000 = .ok .actStop := by decide
theorem test_decode_actReinit : decodeAction 0b0111_00_00_01001000 = .ok (.actReinit 0x48 0) := by decide
theorem test_decode_action_kind0 : decodeAction 0x0000 = .error (.notAnAction 0x0000) := by decide
theorem test_decode_action_bit10 : decodeAction 0x1448 = .error (.notAnAction 0x1448) := by decide

/-- The table's word of a row is offered on the row's own port, and the very next step runs it. -/
theorem test_withFetchWord : fetch Config.params (State.reset.withFetchWord 32 0x10000048) =
    .run (.init 0x48 0) State.reset := by decide

/-! ### Commands (95_test_vectors.md 3.2) -/

theorem test_nop : after .nop s2 = some (0x00C00089, []) := by decide
theorem test_init : after (.init 0x48 0) State.reset = some (0x00000080, [0x1048]) := by decide
theorem test_init_while_busy : after (.init 0x48 0) { s8 with stray := true } = some (0x00000080, [0x1048]) := by decide
theorem test_write : after (.write 0x50 127) s1 = some (0x20000089, [0x2000]) ∧
    cell (.write 0x7F 1) s1 0 = some 0xFE := by decide
theorem test_write_overflow : answer (.write 0x50 128) s1 = some (.response .rejOverflow) := by decide
theorem test_read : after (.read 0x50 1) s1 = some (0x008000C9, [0x2000]) ∧
    cell (.read 0x7F 1) s1 0 = some 0xFF := by decide
theorem test_read_rejected : answer (.read 0x50 0) State.reset = some (.response .rejNotInit) ∧
    answer (.read 0x50 0) s1 = some (.response .rejZeroLen) := by decide
theorem test_retire : after .retire s10 = some (0x00C06080, []) := by decide
theorem test_retire_busy : answer .retire s4 = some (.response .rejBusy) := by decide
theorem test_bufwr : cell (.bufwr 127 0x33) s1 127 = some 0x33 := by decide
theorem test_bufwr_index : answer (.bufwr 128 0x44) s1 = some (.response .rejIndex) := by decide
theorem test_reserved : answer (.reservedCmd 0x20D00002) s2 = some (.response .rejReserved) := by decide
theorem test_reserved_high : after (.reservedCmdHi 0xF0000000) s1 = some (0x00000080, []) := by decide

/-! ### Events (95_test_vectors.md 3.3 and 3.4) -/

theorem test_start : after (.evStart 0x08 0x5A) s2 = some (0x00C02089, [0x30A0]) := by decide
theorem test_start_in_data_phase : after (.evStart 0x08 0x5A) s8 = some (0x010020E9, [0x30A1]) := by decide
theorem test_repeatedStart : after (.evRepeatedStart 0x10 0x5A) s6 = some (0x010020C9, [0x30A1]) := by decide
theorem test_addrAckTx : after (.evAddrAckTx 0x18 0x5A) s3 = some (0x00C0408A, [0x30AA]) ∧
    after (.evAddrAckTx 0x18 0) { s3 with dlen := 1 } = some (0x00402294, [0x6000]) := by decide
theorem test_addrAckTx_in_read : after (.evAddrAckTx 0x18 0x5A) s7 = some (0x01000CD5, [0x7048]) := by decide
theorem test_dataAckTx : after (.evDataAckTx 0x28 0x5A) s4 = some (0x00C0608A, [0x30BB]) := by decide
theorem test_dataAckTx_last : after (.evDataAckTx 0x28 0x5A) s5 = some (0x00C06294, [0x6000]) := by decide
theorem test_addrAckRx : after (.evAddrAckRx 0x40 0x5A) s7 = some (0x010020EB, [0x4000]) := by decide
theorem test_addrAckRx_one_byte :
    after (.evAddrAckRx 0x40 0) { s7 with dlen := 2 } = some (0x008020CB, [0x5000]) := by decide
theorem test_dataAckRx : after (.evDataAckRx 0x50 0x5A) s8 = some (0x010040EB, [0x4000]) := by decide
theorem test_dataAckRx_while_nack_armed : after (.evDataAckRx 0x50 0x5A) s9 = some (0x01000CD5, [0x7048]) := by decide
theorem test_dataNackRx : after (.evDataNackRx 0x58 0x5A) s9 = some (0x010062D4, [0x6000]) := by decide
theorem test_dataNackRx_early : after (.evDataNackRx 0x58 0x5A) s8 = some (0x008022F4, [0x6000]) := by decide
theorem test_addrNackTx : after (.evAddrNackTx 0x20 0x5A) s3 = some (0x00C00495, [0x7048]) := by decide
theorem test_addrNackRx : after (.evAddrNackRx 0x48 0x5A) s7 = some (0x010004D5, [0x7048]) := by decide
theorem test_dataNackTx : after (.evDataNackTx 0x30 0x5A) s5 = some (0x00C00695, [0x7048]) := by decide
theorem test_arbitrationLost : after (.evArbitrationLost 0x38 0x5A) s8 = some (0x010008D5, [0x7048]) := by decide
theorem test_unknown : after (.evUnknown 0x00 0x5A) s3 = some (0x00C00C95, [0x7048]) := by decide
theorem test_stray : after (.evDataAckTx 0x28 0x5A) s10 = some (0x00C06394, [0x7048]) ∧
    after (.evStart 0x08 0) State.reset = some (0x00000100, [0x7000]) := by decide
theorem test_timeout : after .timeout s6 = some (0x01000AD5, [0x7048]) := by decide
theorem test_timeout_not_busy : after .timeout s10 = some (0x00C06294, []) := by decide

/-! ### The bus controller (40_bus_controller.md R121 to R126) -/

/-- A bus controller with everything pending. -/
def pending : Controller :=
  { Controller.reset with startReq := true, stopReq := true, ackReq := some .nack, eventPending := true }

/-- That controller after it takes a word. -/
def ctrlAfter (i : Instr) : Option Controller :=
  match exec i { s4 with ctrl := pending } with
  | .next t => some t.ctrl
  | .fault _ => none
  | .refused _ => none

theorem test_actInit : ctrlAfter (.actInit 0x20 1) =
    some { Controller.reset with clkDiv := 0x20, clkPresc := 1, asked := .silence } := by decide
theorem test_actStart : (ctrlAfter .actStart).map (fun c => (c.startReq, c.eventPending)) = some (true, true) := by decide
theorem test_actSend : (ctrlAfter (.actSend 0xA0)).map (fun c => (c.data, c.eventPending)) = some (0xA0, false) := by decide
theorem test_actArmAck : (ctrlAfter .actArmAck).map (fun c => (c.ackReq, c.eventPending)) =
    some (some .ack, false) := by decide
theorem test_actArmNack : (ctrlAfter .actArmNack).map (fun c => (c.ackReq, c.eventPending)) =
    some (some .nack, false) := by decide
theorem test_actStop : (ctrlAfter .actStop).map (fun c => (c.stopReq, c.eventPending)) = some (true, false) := by decide
theorem test_actReinit : (ctrlAfter (.actReinit 0x48 0)).map (fun c => (c.clkDiv, c.startReq, c.ackReq, c.eventPending)) =
    some (0x48, false, none, false) := by decide

/-! ### Host reads (95_test_vectors.md 3.5) -/

theorem test_read_status : (seen (execHostRead 0x0000 s10)).map (·.2.2) = some (some (.word 0x00C06294)) := by decide
theorem test_read_cfg : (seen (execHostRead 0x0001 s10)).map (·.2.2) = some (some (.word 0x00000048)) := by decide
theorem test_read_buf : (seen (execHostRead 0x0102 s10)).map (·.2.2) = some (some (.word 0x000000BB)) := by decide
theorem test_read_past_cap : (seen (execHostRead 0x0180 s10)).map (·.2.2) = some (some (.word 0)) := by decide

/-! ### The machine -/

theorem test_reset_status : State.reset.statusWord = 0 := by decide
theorem test_memory_canonical : Memory.put (Memory.put [] 2 0x22) 0 0xA0 = [(0, 0xA0), (2, 0x22)] := by decide

/-! ### Other parameters (00_scope.md R7; 30_encoding.md R92, R93) -/

/-- Parameters of R7 and R8 other than this hardware's: the largest buffer, a mask that keeps every bit and the codes of
Start and RepeatedStart exchanged. -/
def others : Params where
  cap := 256
  status := { mask := 0xFF, code := fun c => match c with
    | .start => some 0x10
    | .repeatedStart => some 0x08
    | _ => avrStatusCode c }
  clockOk := fun _ _ => true
  timeoutBound := none

theorem others_valid : others.Valid where
  cap_ge := by decide
  cap_le := by decide
  status := by
    refine ⟨?_, ?_, ?_⟩
    · intro c d v hc hd
      cases c <;> cases hc <;> cases d <;> first | rfl | (exact absurd hd (by decide))
    · intro c v hc
      cases c <;> cases hc <;> decide
    · intro c; cases c <;> decide

theorem test_step_decodes_with_its_codes :
    fetch others { s2 with turns := [.event 0x085A] } = .run (.evRepeatedStart 0x08 0x5A) s2 ∧
    fetch others { s2 with turns := [.event 0x095A] } = .run (.evUnknown 0x09 0x5A) s2 := by decide

theorem test_step_checks_with_its_cap :
    (seen (stepWith others { s1 with turns := [.command 0x205000FF] })).map (·.2.2) =
      some (some (.response .accepted)) ∧
    (seen (stepWith { others with cap := 2 } { s1 with turns := [.command 0x20500002] })).map (·.2.2) =
      some (some (.response .rejOverflow)) ∧
    (seen (execHostReadIn 2 0x0102 s10)).map (·.2.2) = some (some (.word 0)) := by decide

/-! ### Witnesses: states and operands that meet the hypotheses of the obligations -/

/-- This hardware with CLOCK_OK always true, and always false: the two ends of the parameter. -/
def always : Params := { cap := 128, status := Config.status, clockOk := fun _ _ => true, timeoutBound := none }
def never : Params := { always with clockOk := fun _ _ => false }

theorem witness_CategoryIsTheUniqueCodeOrUnknown :
    others.status.Valid ∧ others.status.code .start = some 0x10 ∧ others.status.category 0x10 = .start ∧
      others.status.category 0x11 = .unknown := ⟨others_valid.status, by decide, by decide, by decide⟩

theorem witness_UnmaskedStatusBitsNeverChangeTheCategory : (0x08 : Byte) &&& Config.status.mask = 0x0F &&& Config.status.mask := by decide

theorem witness_DecodeOfEncodeIsTheInstruction : (Instr.evStart 0x0F 0xFF).wf = true ∧ (Instr.reservedCmd 0x7FFFFFFF).wf = true ∧
    (Instr.reservedCmdHi 0xFFFFFFFF).wf = true ∧ (Instr.evUnknown 0xFF 0).wf = true ∧
    (Instr.init 0xFF 3).wf = true ∧ (Instr.evStart 0x10 0xFF).wfWith others.status = true := by decide

theorem witness_EncodeOfDecodeIsTheWord : decode (.command 0x2050007F) = .ok (.write 0x50 127) ∧
    decode (.action 0x73FF) = .ok (.actReinit 0xFF 3) ∧
    decodeWith others.status (.event 0x10FF) = .ok (.evStart 0x10 0xFF) := by decide

theorem witness_ReservedWordsAreRejected : isReserved 0x00000001 = true ∧ isReserved 0xF0000000 = true ∧
    isReserved 0x2050007F = false := by decide

theorem witness_StepRunsTheDecodedTurn :
    State.reset.outsideSpec Config.clockOk = false ∧ s4.outsideSpec always.clockOk = false ∧
    ({ s4 with turns := [.command 0x40000000] } : State).outsideSpec always.clockOk = false ∧
    decode (.command 0x40000000) = .ok .retire ∧ decode (.event 0x285A) = .ok (.evDataAckTx 0x28 0x5A) ∧
    decode (.action 0x30A0) = .ok (.actSend 0xA0) ∧
    ({ s4 with turns := [.controller], actions := [0x30A0] } : State).actions = 0x30A0 :: [] := by decide

theorem witness_BadClockRunIsRefused : never.clockOk 0x48 0 = false ∧ s1.cfgValid = true ∧ s1.cfgDiv = 0x48 ∧
    s1.cfgPresc = 0 := by decide

theorem witness_AcceptedWriteStartsATransaction : s1.busy = false ∧ s1.cfgValid = true ∧ (0 : Byte).toNat + 1 ≤ Config.cap ∧
    (127 : Byte).toNat + 1 ≤ Config.cap ∧ s11.busy = false ∧ s11.cfgValid = true := by decide

theorem witness_AcceptedReadStartsATransaction : s1.busy = false ∧ s1.cfgValid = true ∧ (127 : Byte).toNat + 1 ≤ Config.cap ∧
    1 ≤ (1 : Byte).toNat := by decide

theorem witness_RejectionsFollowTheOrderOfChecks : s2.busy = true ∧ (State.reset.busy = false ∧ State.reset.cfgValid = false) ∧
    (s1.busy = false ∧ s1.cfgValid = true ∧ Config.cap < (128 : Byte).toNat + 1 ∧ (0 : Byte).toNat = 0) ∧
    Config.cap ≤ (128 : Byte).toNat := by decide

theorem witness_RetireConsumesTheResult : s10.busy = false ∧ s11.busy = false ∧ s4.busy = true := by decide

theorem witness_NopOnlyResponds : (0x00000001 : CommandWord) >>> 28 = 0 := by decide

theorem witness_BufwrWritesItsCell : s1.busy = false ∧ 1 ≤ (1 : Byte).toNat ∧ (127 : Byte).toNat < Config.cap ∧
    (0 : Byte).toNat = 0 ∧ Config.cap ≤ (128 : Byte).toNat ∧ s2.busy = true := by decide

theorem witness_RejectedCommandsWriteOnlyLastResp : (Instr.write 0x50 2).isCommand = true ∧
    exec (.write 0x50 2) s4 = .next (s4.respond .rejBusy) ∧ (s4.respond .rejBusy).lastResp ≠ .accepted :=
  ⟨by decide, rfl, by decide⟩

theorem witness_EveryCapacityDecidesTheChecks : s1.busy = false ∧ s1.cfgValid = true ∧
    (255 : Byte).toNat + 1 ≤ others.cap ∧ (127 : Byte).toNat + 1 ≤ always.cap ∧ always.cap < (128 : Byte).toNat + 1 ∧
    1 ≤ (127 : Byte).toNat ∧ (127 : Byte).toNat < always.cap ∧ always.cap ≤ (128 : Byte).toNat ∧
    (255 : Byte).toNat < others.cap ∧ (0x0102 : ReadAddr).toNat = 0x0100 + 2 ∧ s10.buf.get? 2 = some 0xBB ∧
    0x0100 + others.cap ≤ (0x0200 : ReadAddr).toNat := by decide

theorem witness_BusyCommandsKeepTheTransaction : s4.busy = true ∧ Instr.retire.isCommand = true ∧
    (∀ div presc, Instr.retire ≠ .init div presc) ∧ Instr.nop.isCommand = true := by
  refine ⟨by decide, by decide, ?_, by decide⟩
  intro div presc h; cases h

theorem witness_StartSendsTheSlaByte : s2.busy = true ∧ s2.buf.get? 0 = some 0xA0 ∧ s8.busy = true ∧
    ({ s2 with buf := [] } : State).buf.get? 0 = none := by decide

theorem witness_AddrAckTxSendsOrStops : s3.state = .address ∧ s3.cursor = 1 ∧ s3.dir = .write ∧ 1 < s3.len ∧
    s3.buf.get? 1 = some 0xAA ∧ ({ s3 with buf := [(0, 0xA0)] } : State).buf.get? 1 = none ∧
    ({ s3 with dlen := 1 } : State).len ≤ 1 := by decide

theorem witness_DataAckTxSendsOrStops : s4.state = .dataTx ∧ s4.len ≤ Config.cap ∧ s4.cur < s4.len ∧
    s4.buf.get? s4.cur = some 0xBB ∧ ({ s4 with buf := [(0, 0xA0)] } : State).buf.get? 2 = none ∧
    s5.state = .dataTx ∧ s5.len ≤ s5.cur := by decide

theorem witness_AddrAckRxArmsTheAcknowledge : s7.state = .address ∧ s7.cursor = 1 ∧ s7.dir = .read ∧ 3 ≤ s7.len ∧
    ({ s7 with dlen := 3 } : State).len = 3 ∧ ({ s7 with dlen := 2 } : State).len ≤ 2 := by decide

theorem witness_DataAckRxStoresAndArms : s8.state = .dataRx ∧ s8.len ≤ Config.cap ∧ s8.cur + 2 ≤ s8.len ∧
    ({ s8 with cursor := 2 } : State).cur + 2 = s8.len := by decide

theorem witness_DataNackRxStoresAndStops : s9.state = .dataRx ∧ s9.cur < Config.cap ∧ s8.state = .dataRx ∧
    ({ s9 with cursor := 127, dlen := 128 } : State).cur < Config.cap := by decide

theorem witness_ErrorEventsAbort : s2.busy = true ∧ s4.busy = true ∧ s8.busy = true := by decide

theorem witness_ProtocolViolationsAbort :
    s2.busy = true ∧ ¬(s2.state = .address ∧ s2.cur = 1 ∧ s2.dir = .write) ∧ s2.state ≠ .dataTx ∧
    ¬(s3.state = .address ∧ s3.cur = 1 ∧ s3.dir = .read) ∧
    s9.busy = true ∧ ¬(s9.state = .dataRx ∧ 2 ≤ s9.len - s9.cur) ∧ s7.state ≠ .dataRx := by decide

theorem witness_EventsWhileNotActiveAreStray : s1.busy = false ∧ s10.busy = false ∧ s11.busy = false := by decide

theorem witness_TimeoutAbortsOnlyWhileBusy : s2.busy = true ∧ s10.busy = false := by decide

/-- For EventsUpdateTheControllersFlags and EveryEventIsReleasedOnce. -/
theorem witness_EventStep : (Instr.evStart 0x08 0).isEvent = true ∧
    exec (eventInstr .start 0x08 0x5A) s10 = .next (s10.reported .start 0x08 0x5A).strayEvent := ⟨by decide, rfl⟩

theorem witness_EventDataIsIgnoredOutsideReceive : (BusEvent.start = .dataAckRx ∨ BusEvent.start = .dataNackRx → (1 : Byte) = 2) ∧
    (BusEvent.dataAckRx = .dataAckRx ∨ BusEvent.dataAckRx = .dataNackRx → (1 : Byte) = 1) := by decide

/-- Any input that answers meets the hypotheses of the frames over all instructions: ActionsPerStepAreBounded,
StoresReachOnlyTheirCell, OnlyInitWritesTheConfiguration, StrayIsSetByStrayEventsAndClearedByInit,
OnlyCommandsWriteLastResp. -/
theorem witness_ExecAnswers : Instr.nop.isEvent = false ∧ exec .nop s4 = .next (s4.respond .accepted) ∧
    exec .timeout s10 = .next s10 ∧ execHostRead 0x0003 s4 = .next (s4.answer 0) ∧
    storeIndex .nop s4 ≠ some 0 ∧ storeIndex (.evDataAckRx 0x50 0) s8 ≠ some 0 :=
  ⟨by decide, rfl, rfl, rfl, by decide, by decide⟩

theorem inv_s4 : s4.Inv 128 where
  memory := by decide
  cells := by decide
  bounds := by simp only [State.cursorBounded]; decide
  agree := rfl
  phase := by simp only [State.phaseOk, s4, writing]; decide
  sla := fun _ => ⟨0x50, by decide⟩
  received := by constructor <;> intro h <;> exact absurd h (by decide)
  configured := fun _ => rfl
  actionsOk := by intro w hw; cases hw
  marksOk := rfl

theorem inv_s9 : s9.Inv 128 where
  memory := by decide
  cells := by decide
  bounds := by simp only [State.cursorBounded]; decide
  agree := rfl
  phase := by simp only [State.phaseOk, s9, reading]; decide
  sla := fun _ => ⟨0x50, by decide⟩
  received := by
    refine ⟨fun _ i h1 h2 => ?_, fun h => absurd h (by decide)⟩
    have h3 : i < 3 := h2
    obtain rfl | rfl : i = 1 ∨ i = 2 := by omega
    · decide
    · decide
  configured := fun _ => rfl
  actionsOk := by intro w hw; cases hw
  marksOk := rfl

theorem inv_readDone : readDone.Inv 128 where
  memory := by decide
  cells := by decide
  bounds := by simp only [State.cursorBounded]; decide
  agree := rfl
  phase := by simp only [State.phaseOk, readDone, reading]; decide
  sla := fun h => absurd h (by decide)
  received := by
    refine ⟨fun h => absurd h (by decide), fun _ _ i h1 h2 => ?_⟩
    have h3 : i ≤ 3 := h2
    obtain rfl | rfl | rfl : i = 1 ∨ i = 2 ∨ i = 3 := by omega
    · decide
    · decide
    · decide
  configured := fun _ => rfl
  actionsOk := by intro w hw; cases hw
  marksOk := rfl

theorem inv_s1 : s1.Inv 128 where
  memory := by decide
  cells := by decide
  bounds := by simp only [State.cursorBounded]; decide
  agree := rfl
  phase := trivial
  sla := fun h => absurd h (by decide)
  received := by constructor <;> intro h <;> exact absurd h (by decide)
  configured := fun _ => rfl
  actionsOk := by intro w hw; cases hw
  marksOk := rfl

theorem witness_OnlyLoadsWriteTheSlaCell : s1.Inv Config.cap ∧
    (∃ t, exec (.write 0x50 2) s1 = .next t ∧ t.buf.get? 0 ≠ s1.buf.get? 0) :=
  ⟨inv_s1, _, rfl, by decide⟩

/-- For FailedKeepsTheFirstReason and FailedIsLeftByHostCommandsOnly. -/
theorem witness_Failed : s11.state = .failed ∧ (Instr.evStart 0x08 0).isEvent = true ∧
    exec .retire s11 = .next (s11.retire.respond .accepted) ∧
    (s11.retire.respond .accepted).state ≠ .failed := ⟨rfl, by decide, rfl, by decide⟩

theorem witness_EventsWriteTheBufferOnlyWhileBusy : s10.busy = false ∧ (Instr.evDataAckRx 0x50 0x22).isCommand = false ∧
    exec (.evDataAckRx 0x50 0x22) s10 = .next (s10.reported .dataAckRx 0x50 0x22).strayEvent :=
  ⟨by decide, by decide, rfl⟩

theorem witness_TheSequencerNeverReadsTheController : (Instr.evStart 0x08 0).isAction = false := by decide

theorem witness_TakingTheEmittedActionReleasesTheEvent : s10.outsideSpec always.clockOk = false ∧ (Instr.evStart 0x08 0).isEvent = true ∧
    s10.actions = [] ∧ execWith always (.evStart 0x08 0) s10 = .next (s10.reported .start 0x08 0).strayEvent :=
  ⟨by decide, by decide, by decide, rfl⟩

/-- A state whose controller was last asked for `a`, with nothing queued. -/
def asking (a : Asked) (s : State) : State := { s with ctrl := { s.ctrl with asked := a } }

theorem witness_ContractEventsAreLegal :
    State.Inv 128 (asking .dataByte s4) ∧ (asking .dataByte s4).inStep ∧
      (asking .dataByte s4).contractAllows .dataNackTx = true ∧
    State.Inv 128 (asking (.receive .nack) s9) ∧ (asking (.receive .nack) s9).inStep ∧
      (asking (.receive .nack) s9).contractAllows .dataNackRx = true ∧
    (asking .silence s10).busy = false ∧ (asking .silence s10).inStep ∧
      (asking .silence s10).contractAllows .unknown = true :=
  ⟨{ inv_s4 with }, ⟨rfl, rfl, rfl⟩, by decide, { inv_s9 with }, ⟨rfl, rfl, rfl⟩, by decide, rfl, ⟨rfl, rfl, rfl⟩,
    by decide⟩

theorem witness_ContractKeepsTheControllerInStep :
    State.Inv always.cap (asking .dataByte s4) ∧ (asking .dataByte s4).inStep ∧
    (asking .dataByte s4).contractAllows .dataAckTx = true ∧
    ∃ t, execWith always (eventInstr .dataAckTx 0x28 0) (asking .dataByte s4) = .next t ∧
      t.outsideSpec always.clockOk = false :=
  ⟨{ inv_s4 with }, ⟨rfl, rfl, rfl⟩, by decide, _, rfl, rfl⟩

theorem witness_AnAnswerMayCrossARecovery :
    (asking .dataByte s4).busy = true ∧ (asking .dataByte s4).contractAllows .dataAckTx = true := by decide

/-- R128 (a): nothing before the last event is released; (b): Start answers START; (f): Unknown alone after STOP. -/
theorem test_contract :
    State.contractAllows { s4 with ctrl := { s4.ctrl with asked := .dataByte, eventPending := true } } .dataAckTx =
      false ∧
    State.contractAllows { s2 with ctrl := { s2.ctrl with asked := .start, startReq := true } } .start = true ∧
    (asking .silence s10).contractAllows .start = false := by decide

/-- R128 (c), (d): a SEND's mark says which byte it is, and an SLA byte's bit 0 the direction. Two SENDs of the SLA byte
queued by two Starts are both one. -/
theorem test_contract_sla :
    (ctrlAfter (.actSend 0xA1)).map (·.asked) = some .dataByte ∧
    (({ pending with sendMarks := [true] } : Controller).send 0xA1).asked = .slaByte .read ∧
    ((({ pending with sendMarks := [true, true] } : Controller).send 0xA0).send 0xA0).asked = .slaByte .write ∧
    ((({ pending with sendMarks := [true, false] } : Controller).send 0xA0).send 0xAA).asked = .dataByte := by decide

/-- Start marks its SEND, behind the one still queued. -/
theorem test_start_marks :
    (match exec (.evStart 0x08 0x5A) { s3 with actions := [0x30A0], ctrl := { s3.ctrl with sendMarks := [true] } } with
      | .next t => some (t.actions, t.ctrl.sendMarks)
      | .fault _ => none
      | .refused _ => none) = some ([0x30A0, 0x30A0], [true, true]) := by decide

theorem witness_HostReadMap : (0x0100 : ReadAddr).toNat = 0x0100 + 0 ∧ s10.buf.get? 0 = some 0xA0 ∧
    (0x017F : ReadAddr).toNat = 0x0100 + 127 ∧ 127 < Config.cap ∧ s10.buf.get? 127 = none ∧
    3 ≤ (0x0003 : ReadAddr).toNat ∧ 0x0100 + Config.cap ≤ (0x0180 : ReadAddr).toNat ∧
    (0x00FF : ReadAddr).toNat < 0x0100 := by decide

theorem witness_SnapshotIsReadable : readDone.Inv Config.cap ∧ readDone.state = .completing ∧ readDone.dir = .read := ⟨inv_readDone, rfl, rfl⟩

/-- The reset state with a turn, for any capacity. -/
theorem inv_reset (cap : Nat) (us : List Turn) : State.Inv cap { State.reset with turns := us } where
  memory := rfl
  cells := rfl
  bounds := ⟨Nat.le_refl 0, Nat.zero_le cap⟩
  agree := rfl
  phase := trivial
  sla := fun h => by cases h
  received := by constructor <;> intro h <;> cases h
  configured := fun h => by cases h
  actionsOk := by intro w hw; cases hw
  marksOk := rfl

theorem witness_EveryStepKeepsTheInvariant :
    State.Inv Config.cap { State.reset with turns := [.command 0] } ∧
      step { State.reset with turns := [.command 0] } = .next (State.reset.respond .accepted) ∧
      State.Inv others.cap { State.reset with turns := [.command 0] } ∧
      stepWith others { State.reset with turns := [.command 0] } = .next (State.reset.respond .accepted) :=
  ⟨inv_reset _ _, rfl, inv_reset _ _, rfl⟩

theorem witness_ErrorsNeverStopTheSequencer : s4.Inv always.cap ∧ s4.outsideSpec always.clockOk = false :=
  ⟨inv_s4, by decide⟩

/-- The events that answer a WRITE of L bytes, under the default codes. -/
def writeEvents (L : Nat) : List EventWord := [0x0800#16, 0x1800#16] ++ List.replicate L 0x2800#16

theorem writeEvents_categories (L : Nat) :
    (writeEvents L).map (fun w => always.status.category (w.extractLsb' 8 8)) =
      [BusEvent.start, BusEvent.addrAckTx] ++ List.replicate L BusEvent.dataAckTx := by
  have h0 : always.status.category ((0x0800#16).extractLsb' 8 8) = .start := by decide
  have h1 : always.status.category ((0x1800#16).extractLsb' 8 8) = .addrAckTx := by decide
  have h2 : always.status.category ((0x2800#16).extractLsb' 8 8) = .dataAckTx := by decide
  simp only [writeEvents, List.map_append, List.map_cons, List.map_nil, List.map_replicate, h0, h1, h2]

/-- At L = 0, at L = 1 and at the largest length, 127. -/
theorem witness_WriteTransactionSendsItsBytes :
    s1.busy = false ∧ s1.cfgValid = true ∧ s1.outsideSpec always.clockOk = false ∧
    ∀ L ∈ [(0 : Byte), 1, 127], L.toNat + 1 ≤ always.cap ∧ (writeEvents L.toNat).map (fun w => always.status.category (w.extractLsb' 8 8)) =
      [BusEvent.start, BusEvent.addrAckTx] ++ List.replicate L.toNat BusEvent.dataAckTx :=
  ⟨by decide, by decide, by decide, fun L hL =>
    ⟨(by decide : ∀ L ∈ [(0 : Byte), 1, 127], L.toNat + 1 ≤ always.cap) L hL, writeEvents_categories _⟩⟩

/-- The events after Start and AddrAckRx that answer a READ of L bytes, under the default codes. -/
def readEvents (L : Nat) : List EventWord := List.replicate (L - 1) 0x5011#16 ++ [0x5833#16]

theorem readEvents_categories (L : Nat) :
    (readEvents L).map (fun w => always.status.category (w.extractLsb' 8 8)) =
      List.replicate (L - 1) BusEvent.dataAckRx ++ [BusEvent.dataNackRx] := by
  have h0 : always.status.category ((0x5011#16).extractLsb' 8 8) = .dataAckRx := by decide
  have h1 : always.status.category ((0x5833#16).extractLsb' 8 8) = .dataNackRx := by decide
  simp only [readEvents, List.map_append, List.map_cons, List.map_nil, List.map_replicate, h0, h1]

/-- At L = 1, at L = 2 and at the largest length, 127. -/
theorem witness_ReadTransactionStoresItsBytes :
    s1.busy = false ∧ s1.cfgValid = true ∧ s1.outsideSpec always.clockOk = false ∧
    always.status.category ((0x0800#16).extractLsb' 8 8) = BusEvent.start ∧
    always.status.category ((0x4000#16).extractLsb' 8 8) = BusEvent.addrAckRx ∧
    ∀ L ∈ [(1 : Byte), 2, 127], L.toNat + 1 ≤ always.cap ∧ 1 ≤ L.toNat ∧
      (readEvents L.toNat).map (fun w => always.status.category (w.extractLsb' 8 8)) =
        List.replicate (L.toNat - 1) BusEvent.dataAckRx ++ [BusEvent.dataNackRx] :=
  ⟨by decide, by decide, by decide, by decide, by decide, fun L hL =>
    have h := (by decide : ∀ L ∈ [(1 : Byte), 2, 127], L.toNat + 1 ≤ always.cap ∧ 1 ≤ L.toNat) L hL
    ⟨h.1, h.2, readEvents_categories _⟩⟩

/-- For EventAndTimeoutInEitherOrder and CommandAndLastEventInEitherOrder. -/
theorem witness_EitherOrder : s5.outsideSpec always.clockOk = false ∧ s5.cfgValid = true ∧ s5.state = .dataTx ∧
    s5.cur = s5.len ∧ (127 : Byte).toNat + 1 ≤ always.cap ∧
    always.status.category ((0x285A#16).extractLsb' 8 8) = BusEvent.dataAckTx := by decide

end Sys2Proof.Tests
end

section
/-! PROOFS. The host read port (R62 to R65): what a read answers at each address of R63, for any CAP, and the two
obligations on it. -/

namespace Sys2Proof.Machine

/-! ### The addresses of R63 -/

/-- An address names STATUS, CFG, RESP or a cell of the buffer window, or it is unmapped (R63, R64). -/
theorem readAddr_cases (cap : Nat) (a : ReadAddr) :
    a = 0x0000 ∨ a = 0x0001 ∨ a = 0x0002 ∨ (∃ i, i < cap ∧ a.toNat = 0x0100 + i) ∨
      (3 ≤ a.toNat ∧ (a.toNat < 0x0100 ∨ 0x0100 + cap ≤ a.toNat)) := by
  by_cases hw : 0x0100 ≤ a.toNat ∧ a.toNat < 0x0100 + cap
  · exact .inr (.inr (.inr (.inl ⟨a.toNat - 0x0100, by omega, by omega⟩)))
  · bv_omega

/-! ### What each address answers -/

theorem hostRead_status (cap : Nat) (s : State) :
    execHostReadIn cap 0x0000 s = .next (s.answer s.statusWord) := rfl

theorem hostRead_cfg (cap : Nat) (s : State) :
    execHostReadIn cap 0x0001 s = .next (s.answer s.cfgWord) := rfl

theorem hostRead_resp (cap : Nat) (s : State) :
    execHostReadIn cap 0x0002 s = .next (s.answer s.respWord) := rfl

/-- In the buffer window the answer is BufRead's byte, and the state is the one BufRead leaves. -/
theorem hostRead_cell {cap i : Nat} {a : ReadAddr} {s t : State} {b : Byte} (hi : i < cap)
    (ha : a.toNat = 0x0100 + i) (h : s.bufRead cap i = .ok (b, t)) :
    execHostReadIn cap a s = .next (t.answer (b.setWidth 32)) := by
  have hidx : a.toNat - 0x0100 = i := by omega
  rw [execHostReadIn, if_neg (by omega), if_neg (by omega), if_neg (by omega), if_pos (by omega), hidx, h]

theorem hostRead_written {cap i : Nat} {a : ReadAddr} {s : State} {b : Byte} (hi : i < cap)
    (ha : a.toNat = 0x0100 + i) (hb : s.buf.get? i = some b) :
    execHostReadIn cap a s = .next (s.answer (b.setWidth 32)) :=
  hostRead_cell hi ha (s.bufRead_written cap i b hi hb)

theorem hostRead_unwritten {cap i : Nat} {a : ReadAddr} {s : State} (hi : i < cap)
    (ha : a.toNat = 0x0100 + i) (hb : s.buf.get? i = none) :
    execHostReadIn cap a s =
      .next (({ s with draws := s.draws + 1 } : State).answer ((Config.freeByte s.draws).setWidth 32)) :=
  hostRead_cell hi ha (s.bufRead_unwritten cap i hi hb)

theorem hostRead_unmapped {cap : Nat} {a : ReadAddr} (s : State) (ha : 3 ≤ a.toNat)
    (hw : a.toNat < 0x0100 ∨ 0x0100 + cap ≤ a.toNat) :
    execHostReadIn cap a s = .next (s.answer 0) := by
  rw [execHostReadIn, if_neg (by omega), if_neg (by omega), if_neg (by omega), if_neg (by omega)]

/-- Except of a never-written cell, a host read answers one word whatever the reply port held before it, and changes
nothing else (R65). -/
theorem hostRead_repeatable (cap : Nat) (a : ReadAddr) (s : State) :
    (∃ i, i < cap ∧ a.toNat = 0x0100 + i ∧ s.buf.get? i = none) ∨
      ∃ w, ∀ r, execHostReadIn cap a { s with reply := r } = .next (s.answer w) := by
  obtain rfl | rfl | rfl | ⟨i, hi, ha⟩ | ⟨ha, hw⟩ := readAddr_cases cap a
  · exact .inr ⟨s.statusWord, fun _ => hostRead_status cap _⟩
  · exact .inr ⟨s.cfgWord, fun _ => hostRead_cfg cap _⟩
  · exact .inr ⟨s.respWord, fun _ => hostRead_resp cap _⟩
  · cases hb : s.buf.get? i with
    | none => exact .inl ⟨i, hi, ha, hb⟩
    | some b => exact .inr ⟨b.setWidth 32, fun _ => hostRead_written hi ha hb⟩
  · exact .inr ⟨0, fun _ => hostRead_unmapped _ ha hw⟩

/-! ### The obligations -/

/-- Settles O50: one lemma per address of R63, and the unmapped addresses of R64. -/
theorem hostReadMap : Obligations.HostReadMap := by
  intro a s
  refine ⟨?status, ?cfg, ?resp, ?written, ?unwritten, ?unmapped⟩
  case status => rintro rfl; exact hostRead_status _ s
  case cfg => rintro rfl; exact hostRead_cfg _ s
  case resp =>
    rintro rfl
    refine (hostRead_resp _ s).trans ?_
    cases h : s.lastResp <;> simp [State.answer, State.respWord, Resp.code, h]
  case written => exact fun i b hi ha hb => hostRead_written hi ha hb
  case unwritten => exact fun i hi ha hb => hostRead_unwritten hi ha hb
  case unmapped => exact fun ha hw => hostRead_unmapped s ha hw

/-- Settles O51: a never-written cell's read counts one draw, and every other read answers a word that does not depend
on the reply port, so a second read answers it again. -/
theorem hostReadChangesNoState : Obligations.HostReadChangesNoState := by
  intro a s
  obtain ⟨i, hi, ha, hb⟩ | ⟨w, hw⟩ := hostRead_repeatable Config.cap a s
  · have hcell : a.toNat - 0x0100 = i := by omega
    exact ⟨_, s.draws + 1, hostRead_unwritten hi ha hb, .inl ⟨by omega, by omega, by rw [hcell, hb], rfl⟩⟩
  · exact ⟨w, s.draws, hw s.reply, .inr ⟨rfl, hw (some (.word w))⟩⟩

end Sys2Proof.Machine
end

section
/-! PROOFS. The encoding of categories and host-read words: an event's category from its masked status (R91, R92), and
the fields of the status and configuration words (R106, R107). -/

namespace Sys2Proof.Machine

/-! ### Categories (R91, R92) -/

theorem mem_namedEvents_iff (c : BusEvent) : c ∈ namedEvents ↔ c ≠ .unknown := by cases c <;> decide

/-- Only Unknown has no code, so Unknown is the category of no code (R8). -/
theorem ne_unknown_of_code {p : StatusParams} (hp : p.Valid) {c : BusEvent} {v : Byte} (hc : p.code c = some v) :
    c ≠ .unknown := by
  intro h
  simp [(hp.unknown_only c).mpr h] at hc

/-- The converse of `Laws.code_of_category`: as the codes are pairwise distinct, the table has no other row for it. -/
theorem category_of_code {p : StatusParams} (hp : p.Valid) {c : BusEvent} {status : Byte}
    (hc : p.code c = some (status &&& p.mask)) : p.category status = c := by
  have hfound : (namedEvents.find? fun d => p.code d == some (status &&& p.mask)).isSome :=
    List.find?_isSome.mpr ⟨c, (mem_namedEvents_iff c).mpr (ne_unknown_of_code hp hc), by simp [hc]⟩
  obtain ⟨d, hd⟩ := Option.isSome_iff_exists.mp hfound
  have hcode : p.code d = some (status &&& p.mask) := by simpa using List.find?_some hd
  rw [StatusParams.category, hd]
  exact hp.distinct d c _ hcode hc

/-- Settles O6: the category's definition reads the status only under the mask. -/
theorem unmaskedStatusBitsNeverChangeTheCategory : Obligations.UnmaskedStatusBitsNeverChangeTheCategory := by
  intro p st st' h
  rw [StatusParams.category, StatusParams.category, h]

/-- Settles O5: a named category and its code determine each other, and Unknown is what remains. -/
theorem categoryIsTheUniqueCodeOrUnknown : Obligations.CategoryIsTheUniqueCodeOrUnknown := by
  intro p hp status
  refine ⟨fun c v hv => ⟨fun h => ?toCode, fun h => ?ofCode⟩, fun h c hc => ?noCode, fun h => ?unknown⟩
  case toCode => exact Option.some.inj ((Laws.code_of_category h (ne_unknown_of_code hp hv)).symm.trans hv)
  case ofCode => exact category_of_code hp (h ▸ hv)
  case noCode => exact ne_unknown_of_code hp hc ((category_of_code hp hc).symm.trans h)
  case unknown =>
    by_contra hne
    exact h _ (Laws.code_of_category rfl hne)

/-! ### The fields of a word put together by shifts -/

/-- A field of `n` bits placed at `k` is read back at `k`. -/
@[simp] theorem extractLsb'_placed_same {n : Nat} (v : BitVec n) (k : Nat) (h : k + n ≤ 32) :
    (v.setWidth 32 <<< k).extractLsb' k n = v := by
  apply BitVec.eq_of_getLsbD_eq
  intro i hi
  simp [hi, (by omega : k + i < 32)]

/-- A field placed beside the bits that are read adds nothing to them. -/
@[simp] theorem extractLsb'_placed_disjoint {m : Nat} (v : BitVec m) (k lo n : Nat) (h : lo + n ≤ k ∨ k + m ≤ lo) :
    (v.setWidth 32 <<< k).extractLsb' lo n = 0#n := by
  apply BitVec.eq_of_getLsbD_eq
  intro i hi
  by_cases hk : lo + i < k
  · simp [hk]
  · simp [BitVec.getLsbD_of_ge v (lo + i - k) (by omega)]

/-- The lowest field is placed at 0, with no shift. -/
@[simp] theorem extractLsb'_lowest_same {n : Nat} (v : BitVec n) (h : n ≤ 32) :
    (v.setWidth 32).extractLsb' 0 n = v := by
  simpa using extractLsb'_placed_same v 0 (by omega)

@[simp] theorem extractLsb'_lowest_disjoint {m : Nat} (v : BitVec m) (lo n : Nat) (h : m ≤ lo) :
    (v.setWidth 32).extractLsb' lo n = 0#n := by
  simpa using extractLsb'_placed_disjoint v 0 lo n (.inr (by omega))

/-! ### The fields of the status word (R106) -/

theorem statusWord_state (s : State) : s.statusWord.extractLsb' 0 3 = s.state.code := by
  simp [State.statusWord, BitVec.extractLsb'_or]

theorem statusWord_result (s : State) : s.statusWord.extractLsb' 9 4 = s.result.code := by
  simp [State.statusWord, BitVec.extractLsb'_or]

theorem statusWord_cursor (s : State) : s.statusWord.extractLsb' 13 9 = s.cursor := by
  simp [State.statusWord, BitVec.extractLsb'_or]

theorem statusWord_dlen (s : State) : s.statusWord.extractLsb' 22 9 = s.dlen := by
  simp [State.statusWord, BitVec.extractLsb'_or]

theorem statusWord_busy (s : State) : s.statusWord.getLsbD 3 = s.busy := by simp [State.statusWord]

theorem statusWord_done (s : State) : s.statusWord.getLsbD 4 = s.done := by simp [State.statusWord]

theorem statusWord_ackArmed (s : State) : s.statusWord.getLsbD 5 = s.ackArmed := by simp [State.statusWord]

theorem statusWord_dir (s : State) : s.statusWord.getLsbD 6 = s.dir.code.getLsbD 0 := by simp [State.statusWord]

theorem statusWord_cfgValid (s : State) : s.statusWord.getLsbD 7 = s.cfgValid := by simp [State.statusWord]

theorem statusWord_stray (s : State) : s.statusWord.getLsbD 8 = s.stray := by simp [State.statusWord]

theorem statusWord_bit31 (s : State) : s.statusWord.getLsbD 31 = false := by simp [State.statusWord]

/-! ### The fields of the configuration word (R107) -/

theorem cfgWord_div (s : State) : s.cfgWord.extractLsb' 0 8 = s.cfgDiv := by
  simp [State.cfgWord, BitVec.extractLsb'_or]

theorem cfgWord_presc (s : State) : s.cfgWord.extractLsb' 8 2 = s.cfgPresc := by
  simp [State.cfgWord, BitVec.extractLsb'_or]

theorem cfgWord_zeros (s : State) : s.cfgWord.extractLsb' 10 22 = 0 := by
  simp [State.cfgWord, BitVec.extractLsb'_or]

/-! ### What the coded fields mean -/

theorem State.done_iff (s : State) : s.done = true ↔ s.state = .completing ∨ s.state = .failed := by
  cases h : s.state <;> simp [State.done, h]

/-- R35: the direction bit is 1 for a read. -/
theorem dirCode_bit_iff (d : Dir) : d.code.getLsbD 0 = true ↔ d = .read := by cases d <;> decide

/-- Settles O52: one lemma per field, and the codes of R30, R31 and R35. -/
theorem statusWordFields : Obligations.StatusWordFields := by
  intro s
  refine ⟨?state, ?busy, ?done, statusWord_ackArmed s, ?dir, statusWord_cfgValid s, statusWord_stray s, ?result,
    statusWord_cursor s, statusWord_dlen s, statusWord_bit31 s, cfgWord_div s, cfgWord_presc s, cfgWord_zeros s⟩
  case state => rw [statusWord_state]; cases s.state <;> rfl
  case busy => rw [statusWord_busy]; exact s.busy_iff
  case done => rw [statusWord_done]; exact s.done_iff
  case dir => rw [statusWord_dir]; exact dirCode_bit_iff s.dir
  case result => rw [statusWord_result]; cases s.result <;> rfl

end Sys2Proof.Machine
end

section
/-! PROOFS. The release of events (R102, R127): an event step emits one action word, and it is a releasing one. -/

namespace Sys2Proof.Machine

/-- AckDecide answers the controller with one of the two ARM words (R176), and both release. -/
theorem State.ackDecide_releases (s : State) :
    ∃ a : Action, releases a = true ∧ s.ackDecide.actions = s.actions ++ [a.word] := by
  rw [State.ackDecide_eq]
  by_cases h : 1 < s.remaining
  · exact ⟨.armAck, rfl, by rw [if_pos h]⟩
  · exact ⟨.armNack, rfl, by rw [if_neg h]⟩

/-- A legal event's rule emits one releasing word: SEND, STOP, the word of AckDecide, or the abort's REINIT. -/
theorem eventRule_releases {cap : Nat} {c : BusEvent} {d : Byte} {s t : State} (h : eventRule cap c d s = .next t) :
    ∃ a : Action, releases a = true ∧ t.actions = s.actions ++ [a.word] := by
  cases c
  case start | repeatedStart =>
    obtain ⟨b, n, rfl⟩ := startRule_cases h
    exact ⟨.send b, rfl, rfl⟩
  case addrAckTx | dataAckTx =>
    obtain ⟨-, -, b, n, rfl⟩ | ⟨-, rfl⟩ := transmitRule_cases h
    · exact ⟨.send b, rfl, rfl⟩
    · exact ⟨.stop, rfl, s.complete_actions⟩
  case addrAckRx => cases h; exact s.ackDecide_releases
  case dataAckRx =>
    obtain ⟨-, rfl⟩ := receiveRule_cases h
    exact State.ackDecide_releases _
  case dataNackRx =>
    obtain ⟨-, rfl⟩ := receiveLastRule_cases h
    exact ⟨.stop, rfl, State.complete_actions _⟩
  case addrNackTx | addrNackRx | dataNackTx | arbitrationLost | unknown =>
    cases h
    exact ⟨.reinit s.cfgDiv s.cfgPresc, rfl, s.abort_actions _⟩

/-- An event step emits one releasing word, under any parameters (R127): a stray event or a protocol violation a
REINIT, a legal event the word of its rule. -/
theorem event_releases {p : Params} {c : BusEvent} {st d : Byte} {s t : State}
    (h : execWith p (eventInstr c st d) s = .next t) :
    ∃ a : Action, releases a = true ∧ t.actions = s.actions ++ [a.word] := by
  obtain ⟨-, rfl⟩ | ⟨-, -, rfl⟩ | ⟨-, -, hrule⟩ := event_cases h
  · exact ⟨.reinit s.cfgDiv s.cfgPresc, rfl, State.strayEvent_actions _⟩
  · exact ⟨.reinit s.cfgDiv s.cfgPresc, rfl, State.abort_actions _ _⟩
  · rw [← s.reported_actions c st d]
    exact eventRule_releases hrule

/-- Settles O34: every event is an event of some category, and each category's step emits one releasing word. -/
theorem everyEventIsReleasedOnce : Obligations.EveryEventIsReleasedOnce := by
  intro i s t hi h
  obtain ⟨c, st, d, rfl⟩ := exists_eventInstr hi
  rw [exec_eq] at h
  exact event_releases h

end Sys2Proof.Machine
end

section
/-! PROOFS. The transfer buffer's own command, BUFWR (R140): the rules of a checked command (R200), what BUFWR answers
in each case, for any CAP, and the obligation on it. -/

namespace Sys2Proof.Machine

/-! ### Checked commands (R200) -/

@[simp] theorem firstFailed_nil : firstFailed [] = none := rfl

@[simp] theorem firstFailed_cons_true (r : Resp) (cs : List (Bool × Resp)) :
    firstFailed ((true, r) :: cs) = some r := rfl

@[simp] theorem firstFailed_cons_false (r : Resp) (cs : List (Bool × Resp)) :
    firstFailed ((false, r) :: cs) = firstFailed cs := rfl

theorem onCommand_rejected {checks : List (Bool × Resp)} {r : Resp} (rule : State → Out) (s : State)
    (h : firstFailed checks = some r) : onCommand checks rule s = .next (s.respond r) := by
  rw [onCommand, h]

theorem onCommand_accepted {checks : List (Bool × Resp)} (rule : State → Out) (s : State)
    (h : firstFailed checks = none) : onCommand checks rule s = rule s := by
  rw [onCommand, h]

/-! ### What BUFWR answers (R140) -/

theorem badIndex_iff (cap : Nat) (idx : Byte) : badIndex cap idx = true ↔ idx.toNat = 0 ∨ cap ≤ idx.toNat := by
  simp [badIndex]

theorem badIndex_eq_false_iff (cap : Nat) (idx : Byte) :
    badIndex cap idx = false ↔ 1 ≤ idx.toNat ∧ idx.toNat < cap := by
  rw [← Bool.not_eq_true, badIndex_iff]
  omega

theorem bufwr_busy {s : State} (cap : Nat) (idx data : Byte) (hbusy : s.busy = true) :
    execBufwrIn cap idx data s = .next (s.respond .rejBusy) :=
  onCommand_rejected _ s (by rw [hbusy, firstFailed_cons_true])

theorem bufwr_badIndex {cap : Nat} {idx : Byte} {s : State} (data : Byte) (hbusy : s.busy = false)
    (hidx : idx.toNat = 0 ∨ cap ≤ idx.toNat) : execBufwrIn cap idx data s = .next (s.respond .rejIndex) :=
  onCommand_rejected _ s
    (by rw [hbusy, firstFailed_cons_false, (badIndex_iff cap idx).mpr hidx, firstFailed_cons_true])

theorem bufwr_accepted {cap : Nat} {idx : Byte} {s : State} (data : Byte) (hbusy : s.busy = false)
    (hpos : 1 ≤ idx.toNat) (hcap : idx.toNat < cap) :
    execBufwrIn cap idx data s =
      .next (({ s with buf := s.buf.put idx.toNat data } : State).respond .accepted) := by
  have hchecks : firstFailed [(s.busy, .rejBusy), (badIndex cap idx, .rejIndex)] = none := by
    rw [hbusy, firstFailed_cons_false, (badIndex_eq_false_iff cap idx).mpr ⟨hpos, hcap⟩, firstFailed_cons_false,
      firstFailed_nil]
  rw [execBufwrIn, onCommand_accepted _ s hchecks, s.bufWrite_inside cap _ data hcap]

/-! ### The obligation -/

/-- Settles O18: the three answers of BUFWR at this hardware's CAP, and the buffer's law of a read after a write. -/
theorem bufwrWritesItsCell : Obligations.BufwrWritesItsCell := by
  intro idx data s
  refine ⟨?accepted, ?badIndex, ?busy⟩
  case accepted =>
    intro hbusy hpos hcap
    exact ⟨_, bufwr_accepted data hbusy hpos hcap, s.buf.get?_put_self _ _,
      fun j hj => s.buf.get?_put_other _ j data hj, rfl⟩
  case badIndex => exact fun hbusy hidx => bufwr_badIndex data hbusy hidx
  case busy => exact fun hbusy => bufwr_busy Config.cap idx data hbusy

end Sys2Proof.Machine
end

section
/-! PROOFS. The protocol state machine, one event at a time: the legality table row by row (R160), what a legal event
and an illegal one answer, and the obligations on the event categories and TIMEOUT (R161 to R177). -/

namespace Sys2Proof.Machine

/-! ### The legality table (R160) -/

theorem State.legal_addrAckTx_iff (s : State) :
    s.legal .addrAckTx = true ↔ s.state = .address ∧ s.cur = 1 ∧ s.dir = .write := by
  simp [State.legal, and_assoc]

theorem State.legal_dataAckTx_iff (s : State) : s.legal .dataAckTx = true ↔ s.state = .dataTx := by
  simp [State.legal]

theorem State.legal_addrAckRx_iff (s : State) :
    s.legal .addrAckRx = true ↔ s.state = .address ∧ s.cur = 1 ∧ s.dir = .read := by
  simp [State.legal, and_assoc]

theorem State.legal_dataAckRx_iff (s : State) :
    s.legal .dataAckRx = true ↔ s.state = .dataRx ∧ 2 ≤ s.remaining := by
  simp [State.legal]

theorem State.legal_dataNackRx_iff (s : State) : s.legal .dataNackRx = true ↔ s.state = .dataRx := by
  simp [State.legal]

/-! ### The cursor and the remaining bytes -/

theorem State.cur_eq_one {s : State} (h : s.cursor = 1) : s.cur = 1 := by rw [State.cur, h]; rfl

theorem State.len_lt (s : State) : s.len < 512 := s.dlen.isLt

/-- CURSOR grows by one without wrapping round while it is below DLEN (R9). -/
theorem State.cursor_succ_toNat {s : State} (h : s.cur < s.len) : (s.cursor + 1).toNat = s.cur + 1 := by
  have hlen := s.len_lt
  rw [← s.reg9_cur_succ, reg9_toNat]
  omega

/-- AckDecide arms ACK, and says so to the controller, while more than one byte remains (R176). -/
theorem State.ackDecide_ack {s : State} (h : 1 < s.remaining) :
    s.ackDecide = { s with ackArmed := true, actions := s.actions ++ [Action.armAck.word] } := by
  rw [s.ackDecide_eq, if_pos h, decide_eq_true h]

theorem State.ackDecide_nack {s : State} (h : s.remaining ≤ 1) :
    s.ackDecide = { s with ackArmed := false, actions := s.actions ++ [Action.armNack.word] } := by
  rw [s.ackDecide_eq, if_neg (by omega), decide_eq_false (by omega)]

/-! ### What an event answers -/

theorem execWith_legalEvent (p : Params) {c : BusEvent} (st d : Byte) {s : State} (hbusy : s.busy = true)
    (hlegal : s.legal c = true) :
    execWith p (eventInstr c st d) s = eventRule p.cap c d (s.reported c st d) := by
  rw [execWith_eventInstr, onEvent_legal _ _ _ _ s hbusy hlegal]

theorem execWith_illegalEvent (p : Params) {c : BusEvent} (st d : Byte) {s : State} (hbusy : s.busy = true)
    (hlegal : ¬ s.legal c = true) :
    execWith p (eventInstr c st d) s = .next ((s.reported c st d).abort .unknownStatus) := by
  rw [execWith_eventInstr, onEvent_illegal _ _ _ _ s hbusy (Bool.eq_false_iff.mpr hlegal)]

theorem execWith_strayEvent (p : Params) (c : BusEvent) (st d : Byte) {s : State} (hbusy : s.busy = false) :
    execWith p (eventInstr c st d) s = .next (s.reported c st d).strayEvent := by
  rw [execWith_eventInstr, onEvent_stray _ _ _ _ s hbusy]

/-! ### The obligations on the start and transmit categories -/

/-- Settles O22: both categories are legal in every ACTIVE state and run the one start rule. -/
theorem startSendsTheSlaByte : Obligations.StartSendsTheSlaByte := by
  intro status data s hbusy c i hi
  have hrun : exec i s = startRule Config.cap (s.reported c status data) := by
    obtain ⟨rfl, rfl⟩ | ⟨rfl, rfl⟩ := hi
    · exact execWith_legalEvent Config.params (c := .start) status data hbusy rfl
    · exact execWith_legalEvent Config.params (c := .repeatedStart) status data hbusy rfl
  exact ⟨fun b hb => ⟨_, hrun.trans (startRule_written _ _ b Config.cap_pos hb)⟩,
    fun hb => ⟨_, hrun.trans (startRule_unwritten _ _ Config.cap_pos hb)⟩⟩

/-- Settles O23: the transmit rule at CURSOR 1. -/
theorem addrAckTxSendsOrStops : Obligations.AddrAckTxSendsOrStops := by
  intro status data s hstate hcursor hdir
  have hcur : s.cur = 1 := State.cur_eq_one hcursor
  have hcap : s.cur < Config.cap := by rw [hcur]; decide
  have hnext : s.cursor + 1 = 2 := by rw [hcursor]; rfl
  have hrun : exec (.evAddrAckTx status data) s =
      transmitRule Config.cap (s.reported .addrAckTx status data) :=
    execWith_legalEvent Config.params (c := .addrAckTx) status data (s.busy_iff.mpr (.inl hstate))
      (s.legal_addrAckTx_iff.mpr ⟨hstate, hcur, hdir⟩)
  refine ⟨fun hlen b hb => ?written, fun hlen hb => ?unwritten, fun hlen => ?stop⟩ <;> rw [← hcur] at hlen
  case written =>
    have hsend := transmitRule_written _ (s.reported .addrAckTx status data) b hlen hcap (by rwa [← hcur] at hb)
    rw [State.reported_cursor, hnext] at hsend
    exact ⟨_, hrun.trans hsend⟩
  case unwritten =>
    have hsend := transmitRule_unwritten _ (s.reported .addrAckTx status data) hlen hcap (by rwa [← hcur] at hb)
    rw [State.reported_cursor, hnext] at hsend
    exact ⟨_, hrun.trans hsend⟩
  case stop => exact ⟨_, hrun.trans (transmitRule_done _ _ hlen)⟩

/-- Settles O24: the transmit rule at CURSOR, in a state that stays DATA_TX while bytes are left. -/
theorem dataAckTxSendsOrStops : Obligations.DataAckTxSendsOrStops := by
  intro status data s hstate hcap
  have hrun : exec (.evDataAckTx status data) s =
      transmitRule Config.cap (s.reported .dataAckTx status data) :=
    execWith_legalEvent Config.params (c := .dataAckTx) status data (s.busy_iff.mpr (.inr (.inl hstate)))
      (s.legal_dataAckTx_iff.mpr hstate)
  refine ⟨fun hlen b hb => ?written, fun hlen hb => ?unwritten, fun hlen => ?stop⟩
  case written =>
    have hsend := transmitRule_written _ (s.reported .dataAckTx status data) b hlen (hlen.trans_le hcap) hb
    rw [← hstate] at hsend
    exact ⟨_, hrun.trans hsend⟩
  case unwritten =>
    have hsend := transmitRule_unwritten _ (s.reported .dataAckTx status data) hlen (hlen.trans_le hcap) hb
    rw [← hstate] at hsend
    exact ⟨_, hrun.trans hsend⟩
  case stop => exact ⟨_, hrun.trans (transmitRule_done _ _ hlen)⟩

/-! ### The obligations on the receive categories -/

/-- Settles O25: AckDecide at CURSOR 1, where DLEN − 1 bytes remain. -/
theorem addrAckRxArmsTheAcknowledge : Obligations.AddrAckRxArmsTheAcknowledge := by
  intro status data s hstate hcursor hdir
  have hcur : s.cur = 1 := State.cur_eq_one hcursor
  have hremaining : (s.reported .addrAckRx status data).remaining = s.len - 1 := by
    rw [State.remaining_reported, State.remaining, hcur]
  have hrun : exec (.evAddrAckRx status data) s = receiveStartRule (s.reported .addrAckRx status data) :=
    execWith_legalEvent Config.params (c := .addrAckRx) status data (s.busy_iff.mpr (.inl hstate))
      (s.legal_addrAckRx_iff.mpr ⟨hstate, hcur, hdir⟩)
  rw [receiveStartRule] at hrun
  refine ⟨fun hlen => ?ack, fun hlen => ?nack⟩
  case ack =>
    rw [State.ackDecide_ack (by omega)] at hrun
    exact ⟨_, hrun⟩
  case nack =>
    rw [State.ackDecide_nack (by omega)] at hrun
    exact ⟨_, hrun⟩

/-- Settles O26: the buffer's law of a read after a write, and AckDecide at the new CURSOR. -/
theorem dataAckRxStoresAndArms : Obligations.DataAckRxStoresAndArms := by
  intro status data s hstate hcap hlen
  have hlegal : s.legal .dataAckRx = true :=
    s.legal_dataAckRx_iff.mpr ⟨hstate, by rw [State.remaining]; omega⟩
  have hcur : (s.cursor + 1).toNat = s.cur + 1 := State.cursor_succ_toNat (by omega)
  have hrun : exec (.evDataAckRx status data) s = .next _ :=
    (execWith_legalEvent Config.params status data (s.busy_iff.mpr (.inr (.inr hstate))) hlegal).trans
      (receiveRule_inside Config.cap (s.reported .dataAckRx status data) data
        (by rw [State.cur_reported]; omega))
  rw [State.ackDecide_eq] at hrun
  refine ⟨_, hrun, s.buf.get?_put_self _ _, fun j hj => s.buf.get?_put_other _ j data hj, hcur, ?armed, ?frame⟩
  case armed =>
    rw [decide_eq_true_eq]
    change 1 < s.len - (s.cursor + 1).toNat ↔ _
    omega
  case frame =>
    simp only [decide_eq_true_eq]
    rfl

/-- Settles O27: the store at CURSOR, then the end of the transaction. -/
theorem dataNackRxStoresAndStops : Obligations.DataNackRxStoresAndStops := by
  intro status data s hstate hcap
  have hrun := (execWith_legalEvent Config.params status data (s.busy_iff.mpr (.inr (.inr hstate)))
    (s.legal_dataNackRx_iff.mpr hstate)).trans
    (receiveLastRule_inside Config.cap (s.reported .dataNackRx status data) data hcap)
  exact ⟨_, hrun, s.buf.get?_put_self _ _, fun j hj => s.buf.get?_put_other _ j data hj, rfl⟩

/-! ### The obligations on the aborts and on what arrives while not ACTIVE -/

/-- Settles O28: the five categories are legal in every ACTIVE state, and each one's rule is the abort. -/
theorem errorEventsAbort : Obligations.ErrorEventsAbort := by
  intro status data s hbusy
  have run (c : BusEvent) (hlegal : s.legal c = true) :=
    execWith_legalEvent Config.params (c := c) status data hbusy hlegal
  exact ⟨⟨_, run .addrNackTx rfl⟩, ⟨_, run .addrNackRx rfl⟩, ⟨_, run .dataNackTx rfl⟩,
    ⟨_, run .arbitrationLost rfl⟩, ⟨_, run .unknown rfl⟩⟩

/-- Settles O29: each clause's premise is the negation of the category's row of the legality table. -/
theorem protocolViolationsAbort : Obligations.ProtocolViolationsAbort := by
  intro status data s hbusy
  have run (c : BusEvent) (hlegal : ¬ s.legal c = true) :=
    execWith_illegalEvent Config.params (c := c) status data hbusy hlegal
  exact ⟨fun h => ⟨_, run .addrAckTx (mt s.legal_addrAckTx_iff.mp h)⟩,
    fun h => ⟨_, run .dataAckTx (mt s.legal_dataAckTx_iff.mp h)⟩,
    fun h => ⟨_, run .addrAckRx (mt s.legal_addrAckRx_iff.mp h)⟩,
    fun h => ⟨_, run .dataAckRx (mt s.legal_dataAckRx_iff.mp h)⟩,
    fun h => ⟨_, run .dataNackRx (mt s.legal_dataNackRx_iff.mp h)⟩⟩

/-- Settles O30: one argument for the twelve categories, since a stray event never reaches its rule. -/
theorem eventsWhileNotActiveAreStray : Obligations.EventsWhileNotActiveAreStray := by
  intro c status data s hbusy
  exact ⟨_, (exec_eq _ s).trans (execWith_strayEvent Config.params c status data hbusy)⟩

/-- Settles O31: the two branches of TIMEOUT. -/
theorem timeoutAbortsOnlyWhileBusy : Obligations.TimeoutAbortsOnlyWhileBusy := by
  intro s
  exact ⟨fun hbusy => if_pos hbusy, fun hbusy => if_neg (Bool.eq_false_iff.mp hbusy)⟩

end Sys2Proof.Machine
end

section
/-! PROOFS. Whole transactions, for all parameters (R179, R180): the machine given a list of turns, the load and the
address phase that a write and a read share, the data phase of each by induction on the bytes that are left, and the two
obligations. -/

namespace Sys2Proof.Machine

/-! ### The machine given a list of turns -/

/-- The first turn of a list is taken, and the rest are left to its next state. -/
theorem State.feed_cons {p : Params} {s t : State} {u : Turn} {us : List Turn}
    (hclock : s.outsideSpec p.clockOk = false)
    (hrun : perform (execWith p) (execHostReadIn p.cap) { s with turns := u :: us }
      (fetchTurn p.status u us { s with turns := u :: us }) = .next t)
    (hturns : t.turns = us) : s.feed p (u :: us) = t.feed p us := by
  have hinside : ({ s with turns := u :: us } : State).outsideSpec p.clockOk = false := hclock
  have hstep : stepWith p { s with turns := u :: us } = .next t := by
    rw [stepWith, fetch, hinside, if_neg Bool.false_ne_true]
    exact hrun
  subst hturns
  simp only [State.feed, List.length_cons, Host.Core.run, coreWith, hstep]

/-- A turn on the command port runs the decoded command. -/
theorem State.feed_command {p : Params} {s t : State} {w : CommandWord} {us : List Turn}
    (hclock : s.outsideSpec p.clockOk = false) (hrun : execWith p (decodeCommand w) (s.take us) = .next t)
    (hturns : t.turns = us) : s.feed p (.command w :: us) = t.feed p us :=
  State.feed_cons hclock hrun hturns

/-- A turn on the event port runs the event of the word's category, which leaves the turns to come. -/
theorem State.feed_event {p : Params} {s t : State} {w : EventWord} {us : List Turn} {c : BusEvent}
    (hclock : s.outsideSpec p.clockOk = false) (hc : p.status.category (w.extractLsb' 8 8) = c)
    (hrun : execWith p (eventInstr c (w.extractLsb' 8 8) (w.extractLsb' 0 8)) (s.take us) = .next t) :
    s.feed p (.event w :: us) = t.feed p us := by
  obtain ⟨-, -, -, -, -, -, hturns, -⟩ := event_frame hrun
  subst hc
  exact State.feed_cons hclock hrun hturns

/-- The state in which a rule meets the event word `e` of category `c`: the turn is taken and the event reported. -/
abbrev State.taken (s : State) (c : BusEvent) (e : EventWord) (us : List Turn) : State :=
  (s.take us).reported c (e.extractLsb' 8 8) (e.extractLsb' 0 8)

/-- A turn with an event that is legal runs the rule of its category. -/
theorem State.feed_legalEvent {p : Params} {s t : State} {e : EventWord} {us : List Turn} {c : BusEvent}
    (hclock : s.outsideSpec p.clockOk = false) (hc : p.status.category (e.extractLsb' 8 8) = c)
    (hbusy : s.busy = true) (hlegal : s.legal c = true)
    (hrule : eventRule p.cap c (e.extractLsb' 0 8) (s.taken c e us) = .next t) :
    s.feed p (.event e :: us) = t.feed p us :=
  State.feed_event hclock hc ((execWith_legalEvent p _ _ (s := s.take us) hbusy hlegal).trans hrule)

/-! ### The words of WRITE and READ (R97) -/

/-- A command word with an opcode, an address and a length, in the form of R97's WRITE (opcode 2) and READ (3). -/
def transferWord (op : BitVec 4) (addr : BitVec 7) (len : Byte) : CommandWord :=
  op.setWidth 32 <<< 28 ||| addr.setWidth 32 <<< 16 ||| len.setWidth 32

theorem opOf_transferWord (op : BitVec 4) (addr : BitVec 7) (len : Byte) : opOf (transferWord op addr len) = op := by
  simp [opOf, transferWord, BitVec.extractLsb'_or]

theorem addr_transferWord (op : BitVec 4) (addr : BitVec 7) (len : Byte) :
    field (transferWord op addr len) 16 7 = addr := by
  simp [transferWord, BitVec.extractLsb'_or]

theorem len_transferWord (op : BitVec 4) (addr : BitVec 7) (len : Byte) :
    field (transferWord op addr len) 0 8 = len := by
  simp [transferWord, BitVec.extractLsb'_or]

theorem zeros_transferWord (op : BitVec 4) (addr : BitVec 7) (len : Byte) :
    field (transferWord op addr len) 23 5 = 0 ∧ field (transferWord op addr len) 8 8 = 0 := by
  simp [transferWord, BitVec.extractLsb'_or]

theorem decodeCommand_transferWord_write (addr : BitVec 7) (len : Byte) :
    decodeCommand (transferWord 2 addr len) = .write addr len := by
  simp [decodeCommand, isReserved, opOf_transferWord, zeros_transferWord, addr_transferWord, len_transferWord]

theorem decodeCommand_transferWord_read (addr : BitVec 7) (len : Byte) :
    decodeCommand (transferWord 3 addr len) = .read addr len := by
  simp [decodeCommand, isReserved, opOf_transferWord, zeros_transferWord, addr_transferWord, len_transferWord]

/-! ### The load and the address phase -/

theorem write_accepted {cap : Nat} {len : Byte} {s : State} (addr : BitVec 7) (hbusy : s.busy = false)
    (hcfg : s.cfgValid = true) (hlen : len.toNat + 1 ≤ cap) :
    execWriteIn cap addr len s = startTransaction cap addr len .write s :=
  onCommand_accepted _ s (by simp [hbusy, hcfg, (overflows_eq_false_iff cap len).mpr hlen])

theorem read_accepted {cap : Nat} {len : Byte} {s : State} (addr : BitVec 7) (hbusy : s.busy = false)
    (hcfg : s.cfgValid = true) (hlen : len.toNat + 1 ≤ cap) (hpos : 1 ≤ len.toNat) :
    execReadIn cap addr len s = startTransaction cap addr len .read s :=
  onCommand_accepted _ s (by
    have hzero : (len.toNat == 0) = false := beq_eq_false_iff_ne.mpr (by omega)
    simp [hbusy, hcfg, (overflows_eq_false_iff cap len).mpr hlen, hzero])

/-- From `s` a transaction was loaded and its SLA byte sent, and `t` awaits the address acknowledge (R161, R203, R204). -/
structure State.AddressSent (s t : State) (addr : BitVec 7) (len : Byte) (dir : Dir) : Prop where
  state : t.state = .address
  cursor : t.cur = 1
  dlen : t.len = len.toNat + 1
  direction : t.dir = dir
  clock : ∀ ok, t.outsideSpec ok = s.outsideSpec ok
  cells : ∀ j, j ≠ 0 → t.buf.get? j = s.buf.get? j
  actions : t.actions = s.actions ++ [Action.start.word, (Action.send (slaByte addr dir)).word]

/-- A command that starts a transaction, answered with Start, sends the SLA byte it has just loaded. -/
theorem State.feed_address {p : Params} {s : State} {w : CommandWord} {addr : BitVec 7} {len : Byte} {dir : Dir}
    {e : EventWord} (us : List Turn) (hclock : s.outsideSpec p.clockOk = false) (hcap : 0 < p.cap)
    (hload : ∀ rest, execWith p (decodeCommand w) (s.take rest) = startTransaction p.cap addr len dir (s.take rest))
    (he : p.status.category (e.extractLsb' 8 8) = .start) :
    ∃ t, s.feed p (.command w :: .event e :: us) = t.feed p us ∧ s.AddressSent t addr len dir := by
  have hcommand := State.feed_command (us := .event e :: us) hclock
    ((hload _).trans (startTransaction_eq p.cap addr len dir _ hcap)) rfl
  refine ⟨_, hcommand.trans (State.feed_legalEvent hclock he rfl rfl
    (startRule_written p.cap _ (slaByte addr dir) hcap (Memory.get?_put_self _ 0 _))), ?_⟩
  exact {
    state := rfl, cursor := rfl, direction := rfl, clock := fun _ => rfl
    dlen := by
      have := len.isLt
      exact (reg9_toNat _).trans (Nat.mod_eq_of_lt (by rw [declaredLength]; omega))
    cells := fun j hj => s.buf.get?_put_other 0 j _ hj
    actions := List.append_assoc _ _ _ }

/-! ### The data phase of a write (R163, R164) -/

/-- The state waits for this acknowledge of a byte sent, which is legal in it (R160). -/
def State.AwaitsAckTx (s : State) (c : BusEvent) : Prop :=
  (c = .addrAckTx ∧ s.state = .address ∧ s.cur = 1 ∧ s.dir = .write) ∨ (c = .dataAckTx ∧ s.state = .dataTx)

theorem State.AwaitsAckTx.feed {p : Params} {s t : State} {e : EventWord} {us : List Turn} {c : BusEvent}
    (hawaits : s.AwaitsAckTx c) (hclock : s.outsideSpec p.clockOk = false)
    (hc : p.status.category (e.extractLsb' 8 8) = c) (hrule : transmitRule p.cap (s.taken c e us) = .next t) :
    s.feed p (.event e :: us) = t.feed p us := by
  obtain ⟨rfl, haddress⟩ | ⟨rfl, hdata⟩ := hawaits
  · exact State.feed_legalEvent hclock hc (s.busy_iff.mpr (.inl haddress.1)) (s.legal_addrAckTx_iff.mpr haddress) hrule
  · exact State.feed_legalEvent hclock hc (s.busy_iff.mpr (.inr (.inl hdata))) (s.legal_dataAckTx_iff.mpr hdata) hrule

/-- From `s` the byte `b` at CURSOR was sent, and `t` awaits its acknowledge. -/
structure State.ByteSent (s t : State) (b : Byte) : Prop where
  state : t.state = .dataTx
  cursor : t.cur = s.cur + 1
  dlen : t.len = s.len
  buf : t.buf = s.buf
  clock : ∀ ok, t.outsideSpec ok = s.outsideSpec ok
  cell : ∀ v, s.buf.get? s.cur = some v → b = v
  actions : t.actions = s.actions ++ [(Action.send b).word]

/-- Taking the turn and reporting the event touch nothing that the sending of a byte speaks of. -/
theorem State.ByteSent.of_taken {s t : State} {c : BusEvent} {e : EventWord} {us : List Turn} {b : Byte}
    (h : (s.taken c e us).ByteSent t b) : s.ByteSent t b :=
  ⟨h.state, h.cursor, h.dlen, h.buf, h.clock, h.cell, h.actions⟩

/-- While bytes are left the transmit rule sends the next one, some byte if its cell is unwritten (R148). -/
theorem transmitRule_sends {cap : Nat} {s : State} (hmore : s.cur < s.len) (hcap : s.cur < cap) :
    ∃ t b, transmitRule cap s = .next t ∧ s.ByteSent t b := by
  have hcursor := State.cursor_succ_toNat hmore
  cases hb : s.buf.get? s.cur with
  | some b =>
    exact ⟨_, b, transmitRule_written cap s b hmore hcap hb,
      rfl, hcursor, rfl, rfl, fun _ => rfl, fun v hv => Option.some.inj (hb.symm.trans hv), rfl⟩
  | none =>
    exact ⟨_, _, transmitRule_unwritten cap s hmore hcap hb,
      rfl, hcursor, rfl, rfl, fun _ => rfl, by simp [hb], rfl⟩

/-- From `s` the bytes `sent`, those of the cells CURSOR to DLEN − 1, were sent, and in `t` the write has ended well. -/
structure State.WriteEnds (s t : State) (sent : List Byte) : Prop where
  state : t.state = .completing
  result : t.result = .ok
  cursor : t.cur = s.len
  dlen : t.len = s.len
  count : s.cur + sent.length = s.len
  cells : ∀ k v, k < sent.length → s.buf.get? (s.cur + k) = some v → sent[k]? = some v
  actions : t.actions = s.actions ++ (sent.map fun b => (Action.send b).word) ++ [Action.stop.word]

/-- Once all bytes are sent the write ends with nothing more sent. -/
theorem State.WriteEnds.nil {s t : State} (hlen : s.cur = s.len) (hstate : t.state = .completing)
    (hresult : t.result = .ok) (hcur : t.cur = s.cur) (hdlen : t.len = s.len)
    (hactions : t.actions = s.actions ++ [Action.stop.word]) : s.WriteEnds t [] :=
  { state := hstate, result := hresult, cursor := hcur.trans hlen, dlen := hdlen, count := hlen
    cells := nofun, actions := by simp [hactions] }

theorem State.ByteSent.writeEnds {s m t : State} {b : Byte} {sent : List Byte} (hsent : s.ByteSent m b)
    (hends : m.WriteEnds t sent) : s.WriteEnds t (b :: sent) :=
  { state := hends.state, result := hends.result
    cursor := hends.cursor.trans hsent.dlen, dlen := hends.dlen.trans hsent.dlen
    count := by rw [List.length_cons, ← hsent.dlen, ← hends.count, hsent.cursor]; omega
    cells := by
      rintro (_ | k) v hk hv
      · rw [List.getElem?_cons_zero, hsent.cell v hv]
      · refine hends.cells k v (Nat.lt_of_succ_lt_succ hk) ?_
        rwa [hsent.buf, hsent.cursor, Nat.add_right_comm]
    actions := by simp [hends.actions, hsent.actions] }

/-- The acknowledge that is awaited and then DataAckTx for every byte left send these bytes and end the write. -/
theorem State.feed_transmit {p : Params} {c : BusEvent} {s : State} {evs : List EventWord}
    (hclock : s.outsideSpec p.clockOk = false) (hawaits : s.AwaitsAckTx c) (hcap : s.len ≤ p.cap)
    (hcur : s.cur ≤ s.len)
    (hevs : evs.map (fun w => p.status.category (w.extractLsb' 8 8)) =
      c :: List.replicate (s.len - s.cur) BusEvent.dataAckTx) :
    ∃ t sent, s.feed p (evs.map Turn.event) = .next t ∧ s.WriteEnds t sent := by
  induction evs generalizing c s with
  | nil => cases hevs
  | cons e es ih =>
    obtain ⟨he, hes⟩ := List.cons.inj hevs
    obtain hlast | hmore := hcur.eq_or_lt
    · obtain rfl : es = [] := by simpa [hlast] using hes
      exact ⟨_, [], hawaits.feed hclock he (transmitRule_done _ _ hlast.ge), .nil hlast rfl rfl rfl rfl rfl⟩
    · obtain ⟨m, b, hsend, hsent⟩ := transmitRule_sends (cap := p.cap) (s := s.taken c e (es.map Turn.event)) hmore
        (hmore.trans_le hcap)
      replace hsent := hsent.of_taken
      have hleft : s.len - s.cur = m.len - m.cur + 1 := by rw [hsent.dlen, hsent.cursor]; omega
      rw [hleft] at hes
      obtain ⟨t, sent, hfeed, hends⟩ := ih ((hsent.clock _).trans hclock) (.inr ⟨rfl, hsent.state⟩)
        (hsent.dlen.trans_le hcap) (by rw [hsent.dlen, hsent.cursor]; exact hmore) hes
      exact ⟨t, b :: sent, (hawaits.feed hclock he hsend).trans hfeed, hsent.writeEnds hends⟩

/-- Settles O57: the address phase, then the data phase from CURSOR 1, where AddrAckTx is awaited. -/
theorem writeTransactionSendsItsBytes : Obligations.WriteTransactionSendsItsBytes := by
  intro p s addr len evs hbusy hcfg hclock hcap hevs
  obtain ⟨e, es, rfl, he, hes⟩ := List.map_eq_cons_iff.mp hevs
  obtain ⟨m, haddress, hsent⟩ := State.feed_address (w := transferWord 2 addr len) (es.map Turn.event) hclock
    (Nat.zero_lt_of_lt hcap)
    (fun _ => by rw [decodeCommand_transferWord_write]; exact write_accepted addr hbusy hcfg hcap) he
  have hleft : m.len - m.cur = len.toNat := by rw [hsent.dlen, hsent.cursor]; omega
  obtain ⟨t, sent, hdata, hends⟩ := State.feed_transmit ((hsent.clock _).trans hclock)
    (.inl ⟨rfl, hsent.state, hsent.cursor, hsent.direction⟩) (hsent.dlen.trans_le hcap)
    (by rw [hsent.dlen, hsent.cursor]; omega) (by rw [hleft]; exact hes)
  have hcount : sent.length = len.toNat := by have := hends.count; omega
  refine ⟨t, sent, haddress.trans hdata, hcount, fun k b hk hb => ?cells, ?actions, hends.state, hends.result,
    hends.cursor.trans hsent.dlen, hends.dlen.trans hsent.dlen⟩
  case cells =>
    refine hends.cells k b (by omega) ?_
    rwa [hsent.cursor, Nat.add_comm, hsent.cells _ k.succ_ne_zero]
  case actions => simp [hends.actions, hsent.actions, slaByte, Dir.code]

/-! ### The data phase of a read (R165 to R167) -/

theorem receiveStartRule_eq (s : State) :
    receiveStartRule s = .next ({ s with state := .dataRx } : State).ackDecide := by
  rw [receiveStartRule, State.ackDecide_eq, State.ackDecide_eq]
  rfl

/-- From `s`, about to decide on an acknowledge, ACK was armed and the byte `b` stored at CURSOR, and `t` is about to
decide on the next one. -/
structure State.ByteStored (s t : State) (b : Byte) : Prop where
  state : t.state = .dataRx
  cursor : t.cur = s.cur + 1
  dlen : t.len = s.len
  buf : t.buf = s.buf.put s.cur b
  clock : ∀ ok, t.outsideSpec ok = s.outsideSpec ok
  actions : t.actions = s.actions ++ [Action.armAck.word]

/-- While more than one byte is left AckDecide arms ACK, and a DataAckRx then stores its byte. -/
theorem State.feed_store {p : Params} {s : State} {e : EventWord} (us : List Turn)
    (hclock : s.outsideSpec p.clockOk = false) (hstate : s.state = .dataRx) (hcap : s.cur < p.cap)
    (hmore : 1 < s.remaining) (he : p.status.category (e.extractLsb' 8 8) = .dataAckRx) :
    ∃ t, s.ackDecide.feed p (.event e :: us) = t.ackDecide.feed p us ∧ s.ByteStored t (e.extractLsb' 0 8) := by
  have hlegal : s.legal .dataAckRx = true := s.legal_dataAckRx_iff.mpr ⟨hstate, hmore⟩
  have hcursor : (s.cursor + 1).toNat = s.cur + 1 :=
    State.cursor_succ_toNat (by rw [State.remaining] at hmore; omega)
  rw [State.ackDecide_ack hmore]
  refine ⟨_, State.feed_legalEvent hclock he (s.busy_iff.mpr (.inr (.inr hstate))) hlegal
    (receiveRule_inside _ _ _ hcap), ?_⟩
  exact ⟨hstate, hcursor, rfl, rfl, fun _ => rfl, rfl⟩

/-- From `s`, about to decide on an acknowledge, `bytes` were received and stored from CURSOR on, all but the last
answered with ACK, and in `t` the read has ended well. -/
structure State.ReadEnds (s t : State) (bytes : List Byte) : Prop where
  state : t.state = .completing
  result : t.result = .ok
  cursor : t.cur + 1 = s.len
  dlen : t.len = s.len
  stored : ∀ k, k < bytes.length → t.buf.get? (s.cur + k) = bytes[k]?
  kept : ∀ j, j < s.cur → t.buf.get? j = s.buf.get? j
  actions : t.actions = s.actions ++ List.replicate (s.remaining - 1) Action.armAck.word ++
    [Action.armNack.word, Action.stop.word]

theorem State.ByteStored.readEnds {s m t : State} {b : Byte} {bytes : List Byte} (hstored : s.ByteStored m b)
    (hmore : 1 < s.remaining) (hends : m.ReadEnds t bytes) : s.ReadEnds t (b :: bytes) :=
  have hleft : s.remaining - 1 = m.remaining - 1 + 1 := by
    simp only [State.remaining, hstored.cursor, hstored.dlen] at hmore ⊢
    omega
  { state := hends.state, result := hends.result
    cursor := hends.cursor.trans hstored.dlen, dlen := hends.dlen.trans hstored.dlen
    stored := by
      rintro (_ | k) hk
      · rw [Nat.add_zero, hends.kept _ (by rw [hstored.cursor]; omega), hstored.buf, Memory.get?_put_self]
        rfl
      · rw [← Nat.add_assoc, Nat.add_right_comm, ← hstored.cursor]
        exact hends.stored k (Nat.lt_of_succ_lt_succ hk)
    kept := fun j hj => by
      rw [hends.kept j (by rw [hstored.cursor]; omega), hstored.buf, Memory.get?_put_other _ _ _ _ hj.ne]
    actions := by rw [hends.actions, hstored.actions, hleft, List.replicate_succ]; simp }

/-- With one byte left AckDecide arms NACK, and a DataNackRx then stores its byte and ends the read. -/
theorem State.feed_storeLast {p : Params} {s : State} {e : EventWord} (hclock : s.outsideSpec p.clockOk = false)
    (hstate : s.state = .dataRx) (hcap : s.cur < p.cap) (hlast : s.cur + 1 = s.len)
    (he : p.status.category (e.extractLsb' 8 8) = .dataNackRx) :
    ∃ t, s.ackDecide.feed p [.event e] = .next t ∧ s.ReadEnds t [e.extractLsb' 0 8] := by
  have hremaining : s.remaining = 1 := by rw [State.remaining]; omega
  have hcursor : (s.cursor + 1).toNat = s.cur + 1 := State.cursor_succ_toNat (by omega)
  rw [State.ackDecide_nack hremaining.le]
  refine ⟨_, State.feed_legalEvent hclock he (s.busy_iff.mpr (.inr (.inr hstate)))
    (s.legal_dataNackRx_iff.mpr hstate) (receiveLastRule_inside _ _ _ hcap), ?_⟩
  exact {
    state := rfl, result := rfl, cursor := hlast, dlen := hcursor.trans hlast
    stored := fun k hk => by
      obtain rfl : k = 0 := Nat.lt_one_iff.mp hk
      exact Memory.get?_put_self _ _ _
    kept := fun j hj => Memory.get?_put_other _ _ _ _ hj.ne
    actions := by simp [hremaining] }

/-- In DATA_RX the acknowledge decided on, then DataAckRx for every byte left but the last and DataNackRx for that one,
store these bytes and end the read. -/
theorem State.feed_receive {p : Params} {n : Nat} {s : State} {evs : List EventWord}
    (hclock : s.outsideSpec p.clockOk = false) (hstate : s.state = .dataRx) (hcap : s.len ≤ p.cap)
    (hlen : s.cur + n + 1 = s.len)
    (hevs : evs.map (fun w => p.status.category (w.extractLsb' 8 8)) =
      List.replicate n BusEvent.dataAckRx ++ [BusEvent.dataNackRx]) :
    ∃ t, s.ackDecide.feed p (evs.map Turn.event) = .next t ∧ s.ReadEnds t (evs.map (·.extractLsb' 0 8)) := by
  induction n generalizing s evs with
  | zero =>
    obtain ⟨e, rfl, he⟩ := List.map_eq_singleton_iff.mp hevs
    exact State.feed_storeLast hclock hstate (by omega) hlen he
  | succ n ih =>
    obtain ⟨e, es, rfl, he, hes⟩ := List.map_eq_cons_iff.mp hevs
    have hmore : 1 < s.remaining := by rw [State.remaining]; omega
    obtain ⟨m, hstore, hstored⟩ := State.feed_store (es.map Turn.event) hclock hstate (by omega) hmore he
    obtain ⟨t, hfeed, hends⟩ := ih ((hstored.clock _).trans hclock) hstored.state (hstored.dlen.trans_le hcap)
      (by rw [hstored.cursor, hstored.dlen]; omega) hes
    exact ⟨t, hstore.trans hfeed, hstored.readEnds hmore hends⟩

/-- Awaiting the address acknowledge of a read, AddrAckRx enters the data phase with the first acknowledge decided. -/
theorem State.feed_read {p : Params} {n : Nat} {s : State} {e : EventWord} {evs : List EventWord}
    (hclock : s.outsideSpec p.clockOk = false) (hstate : s.state = .address) (hcur : s.cur = 1) (hdir : s.dir = .read)
    (hcap : s.len ≤ p.cap) (hlen : s.cur + n + 1 = s.len)
    (he : p.status.category (e.extractLsb' 8 8) = .addrAckRx)
    (hevs : evs.map (fun w => p.status.category (w.extractLsb' 8 8)) =
      List.replicate n BusEvent.dataAckRx ++ [BusEvent.dataNackRx]) :
    ∃ t, s.feed p (.event e :: evs.map Turn.event) = .next t ∧ s.ReadEnds t (evs.map (·.extractLsb' 0 8)) := by
  have hstart := State.feed_legalEvent (us := evs.map Turn.event) hclock he (s.busy_iff.mpr (.inl hstate))
    (s.legal_addrAckRx_iff.mpr ⟨hstate, hcur, hdir⟩) (receiveStartRule_eq _)
  obtain ⟨t, hdata, hends⟩ := State.feed_receive hclock
    (s := { s.taken .addrAckRx e (evs.map Turn.event) with state := .dataRx }) rfl hcap hlen hevs
  exact ⟨t, hstart.trans hdata, hends.state, hends.result, hends.cursor, hends.dlen, hends.stored, hends.kept,
    hends.actions⟩

/-- Settles O58: the address phase, then AddrAckRx and the data phase from CURSOR 1. -/
theorem readTransactionStoresItsBytes : Obligations.ReadTransactionStoresItsBytes := by
  intro p s addr len evs e0 e1 hbusy hcfg hclock hcap hpos he0 he1 hevs
  obtain ⟨m, haddress, hsent⟩ := State.feed_address (w := transferWord 3 addr len)
    (.event e1 :: evs.map Turn.event) hclock (Nat.zero_lt_of_lt hcap)
    (fun _ => by rw [decodeCommand_transferWord_read]; exact read_accepted addr hbusy hcfg hcap hpos) he0
  obtain ⟨t, hread, hends⟩ := State.feed_read (n := len.toNat - 1) ((hsent.clock _).trans hclock) hsent.state
    hsent.cursor hsent.direction (hsent.dlen.trans_le hcap) (by rw [hsent.cursor, hsent.dlen]; omega) he1 hevs
  have hcount : evs.length = len.toNat := by
    simpa [Nat.sub_add_cancel hpos] using congrArg List.length hevs
  have hleft : m.remaining = len.toNat := by rw [State.remaining, hsent.cursor, hsent.dlen]; omega
  refine ⟨t, haddress.trans hread, ?actions, hends.state, hends.result, ?cursor, hends.dlen.trans hsent.dlen,
    fun k hk => ?stored⟩
  case actions => rw [hends.actions, hsent.actions, hleft]; rfl
  case cursor => exact Nat.succ.inj (hends.cursor.trans hsent.dlen)
  case stored =>
    rw [Nat.add_comm k 1, ← hsent.cursor]
    exact hends.stored k (by rwa [List.length_map, hcount])

end Sys2Proof.Machine
end

section
/-! PROOFS. The host commands (R200 to R212): what each command answers while BUSY, what INIT and RETIRE write, the load
that WRITE and READ share, and the obligations on them. -/

namespace Sys2Proof.Machine

/-! ### Commands while BUSY (R200, R209) -/

/-- BUSY is the first check of WRITE, READ, RETIRE and BUFWR, so it decides before every other one. -/
theorem onCommand_busy (checks : List (Bool × Resp)) (rule : State → Out) {s : State} (hbusy : s.busy = true) :
    onCommand ((s.busy, .rejBusy) :: checks) rule s = .next (s.respond .rejBusy) :=
  onCommand_rejected rule s (by rw [hbusy, firstFailed_cons_true])

theorem write_busy {s : State} (cap : Nat) (addr : BitVec 7) (len : Byte) (hbusy : s.busy = true) :
    execWriteIn cap addr len s = .next (s.respond .rejBusy) :=
  onCommand_busy _ _ hbusy

theorem read_busy {s : State} (cap : Nat) (addr : BitVec 7) (len : Byte) (hbusy : s.busy = true) :
    execReadIn cap addr len s = .next (s.respond .rejBusy) :=
  onCommand_busy _ _ hbusy

theorem retire_busy {s : State} (hbusy : s.busy = true) : execRetire s = .next (s.respond .rejBusy) :=
  onCommand_busy _ _ hbusy

/-- Settles O21: command by command, INIT left out; NOP and the reserved words have no check and no write but the
response. -/
theorem busyCommandsKeepTheTransaction : Obligations.BusyCommandsKeepTheTransaction := by
  intro i s hbusy hi hinit
  cases i
  case nop => exact ⟨.accepted, rfl, by simp⟩
  case init div presc => exact absurd rfl (hinit div presc)
  case write addr len => exact ⟨.rejBusy, write_busy Config.cap addr len hbusy, fun _ => rfl⟩
  case read addr len => exact ⟨.rejBusy, read_busy Config.cap addr len hbusy, fun _ => rfl⟩
  case retire => exact ⟨.rejBusy, retire_busy hbusy, fun _ => rfl⟩
  case bufwr idx data => exact ⟨.rejBusy, bufwr_busy Config.cap idx data hbusy, fun _ => rfl⟩
  case reservedCmd w => exact ⟨.rejReserved, rfl, by simp⟩
  case reservedCmdHi w => exact ⟨.rejReserved, rfl, by simp⟩
  all_goals cases hi

/-! ### NOP (R201) -/

/-- The opcode is the word's top four bits, so the words of opcode 0 are those below `2 ^ 28`. -/
theorem toNat_lt_of_opcode_zero {w : CommandWord} (h : w >>> 28 = 0) : w.toNat < 2 ^ 28 := by
  have hshift : w.toNat / 2 ^ 28 = 0 := by
    rw [← Nat.shiftRight_eq_div_pow, ← BitVec.toNat_ushiftRight, h]
    rfl
  omega

/-- The bits that R97 marks 0 in NOP are all the bits that a word of opcode 0 has. -/
theorem isReserved_of_opcode_zero {w : CommandWord} (h : w >>> 28 = 0) (hw : w ≠ 0) : isReserved w = true := by
  have hlt := toNat_lt_of_opcode_zero h
  have hop : (opOf w).toNat = 0 := by
    simp only [opOf, BitVec.extractLsb'_toNat, Nat.shiftRight_eq_div_pow]
    omega
  have hbits : field w 0 28 ≠ 0 := by
    intro hzero
    refine hw (BitVec.eq_of_toNat_eq ?_)
    have hmod := congrArg BitVec.toNat hzero
    rwa [BitVec.extractLsb'_toNat, Nat.shiftRight_zero, Nat.mod_eq_of_lt hlt] at hmod
  simp only [isReserved, hop, bne_iff_ne]
  exact hbits

theorem decodeCommand_of_opcode_zero {w : CommandWord} (h : w >>> 28 = 0) :
    decodeCommand w = if w = 0 then .nop else .reservedCmd w := by
  by_cases hw : w = 0
  · subst hw
    rfl
  · have hmsb : w.msb = false := by
      have hlt := toNat_lt_of_opcode_zero h
      rw [BitVec.msb_eq_false_iff_two_mul_lt]
      omega
    rw [if_neg hw, decodeCommand, if_pos (isReserved_of_opcode_zero h hw), reservedInstr, hmsb,
      if_neg Bool.false_ne_true]

/-- Settles O11: the decoder on the words of opcode 0, and NOP's one write. -/
theorem nopOnlyResponds : Obligations.NopOnlyResponds :=
  ⟨fun _ => decodeCommand_of_opcode_zero, fun _ => rfl⟩

/-! ### INIT (R202, R212) -/

/-- Settles O12: INIT has no check, and its writes are R202's list. -/
theorem initResetsTheSequencer : Obligations.InitResetsTheSequencer := fun _ _ _ => rfl

/-- Settles O13: every register that the second INIT writes holds that value already, and only the queue grows. -/
theorem initIsIdempotent : Obligations.InitIsIdempotent := fun div presc s =>
  ⟨_, _, initResetsTheSequencer div presc s, initResetsTheSequencer div presc _, rfl, rfl, rfl, rfl⟩

/-! ### WRITE and READ once accepted (R203, R204) -/

/-- The declared length, at most 256, fits in DLEN (R100). -/
theorem reg9_declaredLength_toNat (len : Byte) : (reg9 (declaredLength len)).toNat = len.toNat + 1 := by
  have := len.isLt
  rw [reg9_toNat, declaredLength, Nat.mod_eq_of_lt (by omega)]

/-- In `t` a transaction has been loaded into `s` and a START requested, and the host is told so (R141, R142). -/
def State.Started (s t : State) (len : Byte) (dir : Dir) (sla : Byte) : Prop :=
  t.buf.get? 0 = some sla ∧ (∀ j, j ≠ 0 → t.buf.get? j = s.buf.get? j) ∧ t.len = len.toNat + 1 ∧
    t = { s with
      buf := t.buf, dlen := t.dlen, cursor := 0, dir := dir, ackArmed := false, result := .none,
      state := .address, actions := s.actions ++ [0x2000#16], lastResp := .accepted,
      reply := some (.response .accepted) }

theorem startTransaction_started {cap : Nat} (addr : BitVec 7) (len : Byte) (dir : Dir) (s : State) (hcap : 0 < cap) :
    ∃ t, startTransaction cap addr len dir s = .next t ∧ s.Started t len dir (slaByte addr dir) :=
  ⟨_, startTransaction_eq cap addr len dir s hcap, s.buf.get?_put_self 0 _, fun j hj => s.buf.get?_put_other 0 j _ hj,
    reg9_declaredLength_toNat len, rfl⟩

theorem slaByte_write (addr : BitVec 7) : slaByte addr .write = addr.setWidth 8 <<< 1 := by
  simp [slaByte, Dir.code]

theorem slaByte_read (addr : BitVec 7) : slaByte addr .read = addr.setWidth 8 <<< 1 ||| 1#8 := rfl

/-- Settles O14: no check fails, and the load's SLA byte has DIR's bit 0 clear. -/
theorem acceptedWriteStartsATransaction : Obligations.AcceptedWriteStartsATransaction := by
  intro addr len s hbusy hcfg hlen
  have hstarts := startTransaction_started addr len .write s Config.cap_pos
  rwa [← write_accepted addr hbusy hcfg hlen, slaByte_write] at hstarts

/-- Settles O15: no check fails, and the load's SLA byte has DIR's bit 0 set. -/
theorem acceptedReadStartsATransaction : Obligations.AcceptedReadStartsATransaction := by
  intro addr len s hbusy hcfg hlen hpos
  have hstarts := startTransaction_started addr len .read s Config.cap_pos
  rwa [← read_accepted addr hbusy hcfg hlen hpos, slaByte_read] at hstarts

/-! ### RETIRE (R205) -/

theorem retire_accepted {s : State} (hbusy : s.busy = false) : execRetire s = .next (s.retire.respond .accepted) :=
  onCommand_accepted _ s (by rw [hbusy, firstFailed_cons_false, firstFailed_nil])

/-- Settles O17: the two answers of RETIRE. -/
theorem retireConsumesTheResult : Obligations.RetireConsumesTheResult := fun _ =>
  ⟨retire_accepted, retire_busy⟩

/-! ### Commands that are not accepted (R99, R211) -/

/-- A started transaction answers ACCEPTED. -/
theorem startTransaction_lastResp {cap : Nat} {addr : BitVec 7} {len : Byte} {dir : Dir} {s t : State} (hcap : 0 < cap)
    (h : startTransaction cap addr len dir s = .next t) : t.lastResp = .accepted := by
  rw [startTransaction_eq cap addr len dir s hcap] at h
  cases h
  rfl

/-- Settles O19: of all that a command can do, only the bare response leaves LASTRESP other than ACCEPTED. -/
theorem rejectedCommandsWriteOnlyLastResp : Obligations.RejectedCommandsWriteOnlyLastResp := by
  intro i s t hi h hrejected
  rw [exec_eq] at h
  obtain ⟨-, r, rfl⟩ | ⟨div, presc, -, hinit⟩ | ⟨addr, len, dir, -, -, -, -, hstart⟩ | ⟨-, -, rfl⟩ |
    ⟨idx, data, -, -, -, -, rfl⟩ := command_cases hi h
  · rfl
  · cases hinit
    exact absurd rfl hrejected
  · exact absurd (startTransaction_lastResp Config.cap_pos hstart) hrejected
  · exact absurd rfl hrejected
  · exact absurd rfl hrejected

end Sys2Proof.Machine
end

section
/-! PROOFS. Exceptions (R238, R243): FAILED keeps the first error's reason, and a run whose clock configuration fails
CLOCK_OK has no further step. -/

namespace Sys2Proof.Machine

/-! ### FAILED (R238) -/

theorem State.not_busy_of_failed {s : State} (hfailed : s.state = .failed) : s.busy = false :=
  s.not_busy_iff.mpr (.inr (.inr hfailed))

/-- Settles O41: FAILED is not BUSY, so an event is stray there and TIMEOUT is without effect. -/
theorem failedKeepsTheFirstReason : Obligations.FailedKeepsTheFirstReason := by
  intro i s hfailed hi
  have hbusy := State.not_busy_of_failed hfailed
  obtain hevent | rfl := hi
  · obtain ⟨c, status, data, rfl⟩ := exists_eventInstr hevent
    obtain ⟨_, hstray⟩ := eventsWhileNotActiveAreStray c status data s hbusy
    refine ⟨_, hstray, hfailed, rfl, fun _ => rfl, fun htimeout => ?_⟩
    rw [htimeout] at hevent
    cases hevent
  · exact ⟨s, (timeoutAbortsOnlyWhileBusy s).2 hbusy, hfailed, rfl, nofun, fun _ => rfl⟩

/-! ### A clock configuration that fails CLOCK_OK (R243) -/

theorem State.outsideSpec_iff (s : State) (ok : ClockOk) :
    s.outsideSpec ok = true ↔ s.cfgValid = true ∧ ok s.cfgDiv s.cfgPresc = false := by
  simp [State.outsideSpec]

/-- The check comes before any turn is looked at. -/
theorem stepWith_outsideSpec {p : Params} {s : State} (h : s.outsideSpec p.clockOk = true) :
    stepWith p s = .refused .clockNotOk := by
  rw [stepWith, fetch, if_pos h, perform]

/-- Settles O10: INIT writes R202's list whatever CLOCK_OK says of its operands, and a state that holds them as valid is
outside the spec. -/
theorem badClockRunIsRefused : Obligations.BadClockRunIsRefused := by
  intro p div presc hbad
  refine ⟨fun s => ?stored, fun t hvalid hdiv hpresc => ?refused⟩
  case stored => exact ⟨_, initResetsTheSequencer div presc s, rfl, rfl, rfl, rfl⟩
  case refused => exact stepWith_outsideSpec ((t.outsideSpec_iff _).mpr ⟨hvalid, by rw [hdiv, hpresc, hbad]⟩)

end Sys2Proof.Machine
end

section
/-! PROOFS. Reset (R260): the registers' values, and a transfer buffer with no cell written. -/

namespace Sys2Proof.Machine

/-! ### The transfer buffer after reset (R42, R148, R260) -/

/-- The buffer lists the written cells only, and reset leaves that list empty. -/
theorem State.reset_buf_get? (i : Nat) : State.reset.buf.get? i = none := Memory.get?_nil i

theorem State.reset_written (i : Nat) : State.reset.written i = false := by
  rw [State.written, State.reset_buf_get?, Option.isSome_none]

theorem State.reset_not_busy : State.reset.busy = false := State.reset.not_busy_iff.mpr (.inl rfl)

/-- Settles O1: each register's value is the field that reset gives, and a cell of the empty buffer is unwritten, so
reading it is a free draw. -/
theorem resetLeavesEveryRegisterAtItsValue : Obligations.ResetLeavesEveryRegisterAtItsValue := by
  refine ⟨rfl, rfl, rfl, rfl, rfl, rfl, rfl, rfl, rfl, rfl, rfl, State.reset_not_busy, rfl, rfl, rfl, ?written, ?draw⟩
  case written => exact State.reset_written
  case draw => exact fun i hi => State.reset.bufRead_unwritten Config.cap i hi (State.reset_buf_get? i)

end Sys2Proof.Machine
end

section
/-! PROOFS. The decoder and the encoder of every port (R90 to R98, R101 to R103): a word is the join of its fields, so
decoding and encoding are inverse on each port; and the reserved command words by the bits of R97. -/

namespace Sys2Proof

open Machine

/-! ### The fields of a word, taken apart and joined -/

/-- `extractLsb'_placed_same` for a word of any width: a field of `n` bits placed at `k` is read back at `k`. -/
@[simp] theorem field_placed_same {width n : Nat} (v : BitVec n) (k : Nat) (h : k + n ≤ width) :
    (v.setWidth width <<< k).extractLsb' k n = v := by
  apply BitVec.eq_of_getLsbD_eq
  intro i hi
  simp [hi, (by omega : k + i < width)]

/-- `extractLsb'_placed_disjoint` for a word of any width. -/
@[simp] theorem field_placed_disjoint {width m : Nat} (v : BitVec m) (k lo n : Nat)
    (h : lo + n ≤ k ∨ k + m ≤ lo) : (v.setWidth width <<< k).extractLsb' lo n = 0#n := by
  apply BitVec.eq_of_getLsbD_eq
  intro i hi
  by_cases hk : lo + i < k
  · simp [hk]
  · simp [BitVec.getLsbD_of_ge v (lo + i - k) (by omega)]

@[simp] theorem field_lowest_same {width n : Nat} (v : BitVec n) (h : n ≤ width) :
    (v.setWidth width).extractLsb' 0 n = v := by
  simpa using field_placed_same (width := width) v 0 (by omega)

@[simp] theorem field_lowest_disjoint {width m : Nat} (v : BitVec m) (lo n : Nat) (h : m ≤ lo) :
    (v.setWidth width).extractLsb' lo n = 0#n := by
  simpa using field_placed_disjoint (width := width) v 0 lo n (.inr (by omega))

/-- Words that agree on two fields side by side agree on the two read as one. -/
theorem field_join {k lo n m : Nat} {w w' : BitVec k} (hlow : field w lo n = field w' lo n)
    (hhigh : field w (lo + n) m = field w' (lo + n) m) : field w lo (n + m) = field w' lo (n + m) := by
  apply BitVec.eq_of_getLsbD_eq
  intro i hi
  by_cases h : i < n
  · have hbit := congrArg (·.getLsbD i) hlow
    simpa [h, hi] using hbit
  · have hbit := congrArg (·.getLsbD (i - n)) hhigh
    simpa [hi, (by omega : i - n < m), (by omega : lo + n + (i - n) = lo + i)] using hbit

/-- The field of all bits is the word. -/
theorem eq_of_field_all {k : Nat} {w w' : BitVec k} (h : field w 0 k = field w' 0 k) : w = w' := by
  simpa using h

/-! ### Commands (R95 to R98) -/

theorem decodeCommand_reserved {w : CommandWord} (h : isReserved w = true) :
    decodeCommand w = if w.msb then .reservedCmdHi w else .reservedCmd w := by
  rw [decodeCommand, if_pos h, reservedInstr]

/-- A command of any row is decoded from its own word. -/
theorem decodeCommand_encode {p : StatusParams} {i : Instr} {w : CommandWord} (hwf : i.wfWith p = true)
    (hw : encode i = .command w) : decodeCommand w = i := by
  cases i <;> cases hw
  case nop | retire => rfl
  case reservedCmd | reservedCmdHi =>
    obtain ⟨hreserved, hmsb⟩ := Bool.and_eq_true_iff.mp hwf
    rw [decodeCommand_reserved hreserved]
    simp_all
  all_goals simp [decodeCommand, isReserved, opOf, BitVec.extractLsb'_or]

/-- A word with the zeros of WRITE and READ is made up by its opcode, address and length. -/
theorem transferWord_fields {w : CommandWord} (hhigh : field w 23 5 = 0) (hlow : field w 8 8 = 0) :
    transferWord (opOf w) (field w 16 7) (field w 0 8) = w := by
  obtain ⟨hhigh', hlow'⟩ := zeros_transferWord (opOf w) (field w 16 7) (field w 0 8)
  exact eq_of_field_all
    (field_join (n := 8) (len_transferWord _ _ _)
    (field_join (n := 8) (hlow'.trans hlow.symm)
    (field_join (n := 7) (addr_transferWord _ _ _)
    (field_join (n := 5) (m := 4) (hhigh'.trans hhigh.symm) (opOf_transferWord _ _ _)))))

/-- A command word that is not reserved has the zeros of its opcode's row (R97), so the row's operands make up the
word; a reserved one is its row's operand. -/
theorem encode_decodeCommand (p : StatusParams) (w : CommandWord) :
    (decodeCommand w).wfWith p = true ∧ encode (decodeCommand w) = .command w := by
  cases hreserved : isReserved w
  case true =>
    rw [decodeCommand_reserved hreserved]
    cases hmsb : w.msb <;> simp [Instr.wfWith, encode, hreserved, hmsb]
  case false =>
    have opcode (v : BitVec 4) (h : (opOf w).toNat = v.toNat) : field w 28 4 = v := BitVec.eq_of_toNat_eq h
    rw [decodeCommand, hreserved, if_neg Bool.false_ne_true]
    unfold isReserved at hreserved
    split at hreserved <;> simp only [Bool.or_eq_false_iff, bne_eq_false_iff_eq, Bool.true_eq_false] at hreserved
    all_goals refine ⟨rfl, congrArg PortWord.command ?_⟩
    case h_1 hop => exact eq_of_field_all (field_join (n := 28) (m := 4) hreserved.symm (opcode 0 hop).symm)
    case h_2 hop =>
      refine eq_of_field_all ?_
      refine field_join (n := 8) ?_ (field_join (n := 2) ?_ (field_join (n := 18) (m := 4) ?_ ?_)) <;>
        simp [opcode 1 hop, hreserved, BitVec.extractLsb'_or]
    case h_3 hop =>
      have hword := transferWord_fields hreserved.1 hreserved.2
      rwa [opOf, opcode 2 hop] at hword
    case h_4 hop =>
      have hword := transferWord_fields hreserved.1 hreserved.2
      rwa [opOf, opcode 3 hop] at hword
    case h_5 hop => exact eq_of_field_all (field_join (n := 28) (m := 4) hreserved.symm (opcode 4 hop).symm)
    case h_6 hop =>
      refine eq_of_field_all ?_
      refine field_join (n := 8) ?_ (field_join (n := 8) ?_ (field_join (n := 12) (m := 4) ?_ ?_)) <;>
        simp [opcode 5 hop, hreserved, BitVec.extractLsb'_or]

/-- A field is zero exactly when the word has no bit under the field's mask. -/
theorem field_eq_zero_iff {k : Nat} (w : BitVec k) (lo n : Nat) :
    field w lo n = 0#n ↔ w &&& ((BitVec.allOnes n).setWidth k <<< lo) = 0#k := by
  simp only [BitVec.eq_of_getLsbD_eq_iff, BitVec.getLsbD_extractLsb', BitVec.getLsbD_and, BitVec.getLsbD_shiftLeft,
    BitVec.getLsbD_setWidth, BitVec.getLsbD_allOnes, BitVec.getLsbD_zero]
  constructor
  · intro h i hi
    by_cases hin : lo ≤ i ∧ i - lo < n
    · have hbit := h (i - lo) hin.2
      simp_all
    · grind
  · intro h i hi
    by_cases hk : lo + i < k
    · simpa [hi, hk, (by omega : i < k)] using h (lo + i) hk
    · simp [BitVec.getLsbD_of_ge w (lo + i) (by omega)]

theorem toNat_shift_eq_opOf (w : CommandWord) : (w >>> 28).toNat = (opOf w).toNat := by
  rw [opOf, BitVec.extractLsb'_toNat, BitVec.toNat_ushiftRight, Nat.mod_eq_of_lt]
  rw [Nat.shiftRight_eq_div_pow]
  omega

/-- Settles O8: each mask of R98 is the mask of the opcode's zero fields, and the reserved rows have no check. -/
theorem reservedWordsAreRejected : Obligations.ReservedWordsAreRejected := by
  intro w
  refine ⟨?_, decodeCommand_reserved, fun s => ⟨rfl, rfl⟩⟩
  have op (v : CommandWord) : w >>> 28 = v ↔ (opOf w).toNat = v.toNat := by
    rw [← BitVec.toNat_inj, toNat_shift_eq_opOf]
  have low : field w 0 28 = 0 ↔ w &&& 0x0FFFFFFF = 0 := field_eq_zero_iff w 0 28
  have init : field w 10 18 = 0 ↔ w &&& 0x0FFFFC00 = 0 := field_eq_zero_iff w 10 18
  have transfer : field w 23 5 = 0 ∧ field w 8 8 = 0 ↔ w &&& 0x0F80FF00 = 0 := by
    refine (and_congr (field_eq_zero_iff w 23 5) (field_eq_zero_iff w 8 8)).trans ?_
    rw [← BitVec.or_eq_zero_iff, ← BitVec.and_or_distrib_left]
    rfl
  have bufwr : field w 16 12 = 0 ↔ w &&& 0x0FFF0000 = 0 := field_eq_zero_iff w 16 12
  simp only [op, toNat_shift_eq_opOf, ne_eq, ← low, ← init, ← transfer, ← bufwr]
  unfold isReserved
  split
  case h_7 => exact iff_of_true rfl (.inl (by grind))
  all_goals rename_i hop; simp [hop, imp_iff_not_or]

/-! ### Events (R90 to R92) -/

theorem field_eventWord (status data : Byte) :
    field (eventWord status data) 8 8 = status ∧ field (eventWord status data) 0 8 = data := by
  simp [eventWord, BitVec.extractLsb'_or]

theorem eventWord_fields (w : EventWord) : eventWord (field w 8 8) (field w 0 8) = w := by
  obtain ⟨hstatus, hdata⟩ := field_eventWord (field w 8 8) (field w 0 8)
  exact eq_of_field_all (field_join (n := 8) (m := 8) hdata hstatus)

theorem wfWith_eventInstr (p : StatusParams) (c : BusEvent) (status data : Byte) :
    (eventInstr c status data).wfWith p = true ↔ p.category status = c := by
  cases c <;> exact beq_iff_eq

theorem encode_eventInstr (c : BusEvent) (status data : Byte) :
    encode (eventInstr c status data) = .event (eventWord status data) := by
  cases c <;> rfl

theorem decodeEvent_eventWord (p : StatusParams) (status data : Byte) :
    p.decodeEvent (eventWord status data) = eventInstr (p.category status) status data := by
  obtain ⟨hstatus, hdata⟩ := field_eventWord status data
  rw [StatusParams.decodeEvent, hstatus, hdata]

/-! ### Actions (R101 to R103) -/

/-- An action as the input that the bus controller takes. -/
def Action.instr : Action → Instr
  | .init div presc => .actInit div presc
  | .start => .actStart
  | .send b => .actSend b
  | .armAck => .actArmAck
  | .armNack => .actArmNack
  | .stop => .actStop
  | .reinit div presc => .actReinit div presc

theorem encode_instr (a : Action) : encode a.instr = .action a.word := by cases a <;> rfl

theorem isAction_instr (a : Action) : a.instr.isAction = true := by cases a <;> rfl

theorem exists_action {i : Instr} (h : i.isAction = true) : ∃ a : Action, i = a.instr := by
  cases i <;> simp only [Instr.isAction, encode, Bool.false_eq_true] at h
  case actInit div presc => exact ⟨.init div presc, rfl⟩
  case actStart => exact ⟨.start, rfl⟩
  case actSend b => exact ⟨.send b, rfl⟩
  case actArmAck => exact ⟨.armAck, rfl⟩
  case actArmNack => exact ⟨.armNack, rfl⟩
  case actStop => exact ⟨.stop, rfl⟩
  case actReinit div presc => exact ⟨.reinit div presc, rfl⟩

theorem decodeAction_word (a : Action) : decodeAction a.word = .ok a.instr := by
  cases a
  case start | armAck | armNack | stop => rfl
  all_goals simp [decodeAction, Action.word, Action.instr, BitVec.extractLsb'_or]

/-- The bus controller reads only the words of actions: kind and zeros fix every bit but the operands. -/
theorem word_of_decodeAction {w : ActionWord} {i : Instr} (h : decodeAction w = .ok i) :
    ∃ a : Action, i = a.instr ∧ a.word = w := by
  have kind (v : BitVec 4) (h : (field w 12 4).toNat = v.toNat) : field w 12 4 = v := BitVec.eq_of_toNat_eq h
  have plain {v : ActionWord} (hkind : field w 12 4 = field v 12 4) (hzeros : field w 0 12 = field v 0 12) : v = w :=
    eq_of_field_all (field_join (n := 12) (m := 4) hzeros.symm hkind.symm)
  unfold decodeAction at h
  split at h <;> try split at h
  all_goals cases h
  case h_1.isTrue hkind hzeros =>
    refine ⟨.init _ _, rfl, eq_of_field_all ?_⟩
    refine field_join (n := 8) ?_ (field_join (n := 2) ?_ (field_join (n := 2) (m := 4) ?_ ?_)) <;>
      simp [Action.word, kind 1 hkind, hzeros, BitVec.extractLsb'_or]
  case h_2.isTrue hkind hzeros => exact ⟨.start, rfl, plain (kind 2 hkind) hzeros⟩
  case h_3.isTrue hkind hzeros =>
    refine ⟨.send _, rfl, eq_of_field_all ?_⟩
    refine field_join (n := 8) ?_ (field_join (n := 4) (m := 4) ?_ ?_) <;>
      simp [Action.word, kind 3 hkind, hzeros, BitVec.extractLsb'_or]
  case h_4.isTrue hkind hzeros => exact ⟨.armAck, rfl, plain (kind 4 hkind) hzeros⟩
  case h_5.isTrue hkind hzeros => exact ⟨.armNack, rfl, plain (kind 5 hkind) hzeros⟩
  case h_6.isTrue hkind hzeros => exact ⟨.stop, rfl, plain (kind 6 hkind) hzeros⟩
  case h_7.isTrue hkind hzeros =>
    refine ⟨.reinit _ _, rfl, eq_of_field_all ?_⟩
    refine field_join (n := 8) ?_ (field_join (n := 2) ?_ (field_join (n := 2) (m := 4) ?_ ?_)) <;>
      simp [Action.word, kind 7 hkind, hzeros, BitVec.extractLsb'_or]

/-! ### The obligations on the ports -/

/-- Settles O3: port by port; an event's category is the one its status decodes to. -/
theorem decodeOfEncodeIsTheInstruction : Obligations.DecodeOfEncodeIsTheInstruction := by
  intro p i hwf
  obtain hcommand | hevent | rfl | haction := port_cases i
  · cases hw : encode i <;> simp only [Instr.isCommand, hw, Bool.false_eq_true] at hcommand
    rw [decodeWith, decodeCommand_encode hwf hw]
  · obtain ⟨c, status, data, rfl⟩ := exists_eventInstr hevent
    rw [encode_eventInstr, decodeWith, decodeEvent_eventWord, (wfWith_eventInstr p c status data).mp hwf]
  · rfl
  · obtain ⟨a, rfl⟩ := exists_action haction
    rw [encode_instr, decodeWith, decodeAction_word]

/-- Settles O4: port by port; on each, a word is made up by the fields that its decoder reads. -/
theorem encodeOfDecodeIsTheWord : Obligations.EncodeOfDecodeIsTheWord := by
  intro p w i h
  cases w <;> simp only [decodeWith] at h
  case command w => cases h; exact encode_decodeCommand p w
  case event w =>
    cases h
    refine ⟨(wfWith_eventInstr p _ _ _).mpr rfl, ?_⟩
    rw [StatusParams.decodeEvent, encode_eventInstr, eventWord_fields]
  case timeout => cases h; exact ⟨rfl, rfl⟩
  case action w =>
    obtain ⟨a, rfl, rfl⟩ := word_of_decodeAction h
    exact ⟨by cases a <;> rfl, encode_instr a⟩

/-- Settles O2: the decoder run on each row's word. -/
theorem tableWordsDecodeToTheirRow : Obligations.TableWordsDecodeToTheirRow := by
  unfold Obligations.TableWordsDecodeToTheirRow
  decide

/-! ### The default parameters (R7, R8, R93) -/

/-- A default code is unchanged by the mask, and the decoder reads its category back. -/
theorem avrStatusCode_decodes {c : BusEvent} {v : Byte} (h : avrStatusCode c = some v) :
    v &&& Config.status.mask = v ∧ Config.status.category v = c := by
  cases c <;> cases h <;> decide

/-- Settles O7: codes that decode to their own category are distinct. -/
theorem defaultParametersAreValid : Obligations.DefaultParametersAreValid where
  cap_ge := by decide
  cap_le := by decide
  status := {
    distinct := fun _ _ _ hc hd => (avrStatusCode_decodes hc).2.symm.trans (avrStatusCode_decodes hd).2
    masked := fun _ _ hc => (avrStatusCode_decodes hc).1
    unknown_only := fun c => by cases c <;> decide }

end Sys2Proof
end

section
/-! PROOFS. One step of the machine (R6, R46, R120): what a step does with each turn, all that a step can do, all that
an input can do to a state, and the obligation on the turns. -/

namespace Sys2Proof.Machine

/-! ### What a step does with the next turn -/

section
variable {p : Params} {s : State} {rest : List Turn}

theorem stepWith_noTurn (hclock : s.outsideSpec p.clockOk = false) (h : s.turns = []) : stepWith p s = .next s := by
  rw [stepWith, fetch, hclock, if_neg Bool.false_ne_true, h]
  rfl

theorem stepWith_turn {u : Turn} (hclock : s.outsideSpec p.clockOk = false) (h : s.turns = u :: rest) :
    stepWith p s = perform (execWith p) (execHostReadIn p.cap) s (fetchTurn p.status u rest s) := by
  rw [stepWith, fetch, hclock, if_neg Bool.false_ne_true, h]

theorem fetchWord_decoded {q : StatusParams} {w : PortWord} {i : Instr} (s : State) (h : decodeWith q w = .ok i) :
    fetchWord q w s = .run i s := by
  rw [fetchWord, h]

theorem stepWith_command {w : CommandWord} (hclock : s.outsideSpec p.clockOk = false)
    (h : s.turns = .command w :: rest) : stepWith p s = execWith p (decodeCommand w) (s.take rest) :=
  stepWith_turn hclock h

theorem stepWith_event {w : EventWord} (hclock : s.outsideSpec p.clockOk = false)
    (h : s.turns = .event w :: rest) : stepWith p s = execWith p (p.status.decodeEvent w) (s.take rest) :=
  stepWith_turn hclock h

theorem stepWith_timeout (hclock : s.outsideSpec p.clockOk = false) (h : s.turns = .timeout :: rest) :
    stepWith p s = execWith p .timeout (s.take rest) :=
  stepWith_turn hclock h

theorem stepWith_read {a : ReadAddr} (hclock : s.outsideSpec p.clockOk = false) (h : s.turns = .read a :: rest) :
    stepWith p s = execHostReadIn p.cap a (s.take rest) :=
  stepWith_turn hclock h

theorem stepWith_controller_nothing (hclock : s.outsideSpec p.clockOk = false) (h : s.turns = .controller :: rest)
    (hactions : s.actions = []) : stepWith p s = .next { s with turns := rest } := by
  rw [stepWith_turn hclock h, fetchTurn, hactions]
  rfl

theorem stepWith_controller {w : ActionWord} {as : List ActionWord} (hclock : s.outsideSpec p.clockOk = false)
    (h : s.turns = .controller :: rest) (hactions : s.actions = w :: as) :
    stepWith p s = perform (execWith p) (execHostReadIn p.cap) s
      (fetchWord p.status (.action w) { s with turns := rest, actions := as }) := by
  rw [stepWith_turn hclock h, fetchTurn, hactions]

/-- The controller's turn takes the oldest action. -/
theorem stepWith_action {a : Action} {as : List ActionWord} (hclock : s.outsideSpec p.clockOk = false)
    (h : s.turns = .controller :: rest) (hactions : s.actions = a.word :: as) :
    stepWith p s = execWith p a.instr { s with turns := rest, actions := as } := by
  rw [stepWith_controller hclock h hactions, fetchWord, decodeWith, decodeAction_word]
  rfl

end

/-- Settles O9: turn by turn for any parameters; the machine's own step is the case of its own. -/
theorem stepRunsTheDecodedTurn : Obligations.StepRunsTheDecodedTurn := by
  unfold Obligations.StepRunsTheDecodedTurn
  intro runsTheTurn
  have general (p : Params) (s : State) (hclock : s.outsideSpec p.clockOk = false) :
      runsTheTurn (stepWith p) (execWith p) (execHostReadIn p.cap) p.status s := by
    refine ⟨stepWith_noTurn hclock, ?command, ?event, fun _ => stepWith_timeout hclock,
      fun _ _ => stepWith_read hclock, fun _ => stepWith_controller_nothing hclock, ?action⟩
    case command => rintro w rest i h ⟨⟩; exact stepWith_command hclock h
    case event => rintro w rest i h ⟨⟩; exact stepWith_event hclock h
    case action =>
      intro rest w as i h hactions hdecoded
      rw [stepWith_controller hclock h hactions, fetchWord_decoded _ hdecoded, perform]
  have hstep : step = stepWith Config.params := funext step_eq
  have hexec : exec = execWith Config.params := funext fun i => funext (exec_eq i)
  exact ⟨fun s hclock => hstep ▸ hexec ▸ general Config.params s hclock, general, exec_eq, step_eq⟩

/-! ### All that a step can do -/

theorem isCommand_decodeCommand (w : CommandWord) : (decodeCommand w).isCommand = true := by
  rw [Instr.isCommand, (encode_decodeCommand Config.status w).2]

theorem isAction_decodeEvent (p : StatusParams) (w : EventWord) : (p.decodeEvent w).isAction = false :=
  not_isAction_of_isEvent (isEvent_eventInstr _ _ _)

/-- A step that answers passes a turn with nothing to do, runs an input of the sequencer, a host read, or the oldest
action. -/
theorem stepWith_cases {p : Params} {s t : State} (h : stepWith p s = .next t) :
    (∃ rest, t = { s with turns := rest }) ∨
      (∃ rest i, i.isAction = false ∧ execWith p i (s.take rest) = .next t) ∨
      (∃ rest a, execHostReadIn p.cap a (s.take rest) = .next t) ∨
      ∃ rest as, ∃ a : Action, s.actions = a.word :: as ∧
        execWith p a.instr { s with turns := rest, actions := as } = .next t := by
  cases hclock : s.outsideSpec p.clockOk
  case true => rw [stepWith_outsideSpec hclock] at h; cases h
  case false =>
    match hturns : s.turns with
    | [] => rw [stepWith_noTurn hclock hturns] at h; cases h; exact .inl ⟨s.turns, rfl⟩
    | .command w :: rest =>
      rw [stepWith_command hclock hturns] at h
      exact .inr (.inl ⟨rest, _, not_isAction_of_isCommand (isCommand_decodeCommand w), h⟩)
    | .event w :: rest =>
      rw [stepWith_event hclock hturns] at h
      exact .inr (.inl ⟨rest, _, isAction_decodeEvent p.status w, h⟩)
    | .timeout :: rest =>
      rw [stepWith_timeout hclock hturns] at h
      exact .inr (.inl ⟨rest, _, rfl, h⟩)
    | .read a :: rest =>
      rw [stepWith_read hclock hturns] at h
      exact .inr (.inr (.inl ⟨rest, a, h⟩))
    | .controller :: rest =>
      by_cases hactions : s.actions = []
      · rw [stepWith_controller_nothing hclock hturns hactions] at h
        cases h
        exact .inl ⟨rest, rfl⟩
      · obtain ⟨w, as, hactions⟩ := List.exists_cons_of_ne_nil hactions
        rw [stepWith_controller hclock hturns hactions, fetchWord, decodeWith] at h
        cases hdecoded : decodeAction w with
        | error e => rw [hdecoded] at h; cases h
        | ok i =>
          rw [hdecoded] at h
          obtain ⟨a, rfl, rfl⟩ := word_of_decodeAction hdecoded
          exact .inr (.inr (.inr ⟨rest, as, a, hactions, h⟩))

/-! ### All that an input can do -/

/-- What the input `i` can make of the state `s`: the cases of `command_cases`, `timeout_cases` and `action_cases`, and an
event's step, whose own cases are in `event_cases`. -/
inductive Effect (p : Params) (s : State) : Instr → State → Prop where
  | responds {i : Instr} {r : Resp} (hcommand : i.isCommand = true) (hinit : ∀ div presc, i ≠ .init div presc) :
      Effect p s i (s.respond r)
  | init (div : Byte) (presc : BitVec 2) :
      Effect p s (.init div presc) { s with
        cfgDiv := div, cfgPresc := presc, cfgValid := true, state := .idle, result := .none, cursor := 0, dlen := 0,
        dir := .write, ackArmed := false, stray := false, lastResp := .accepted,
        reply := some (.response .accepted), actions := s.actions ++ [(Action.init div presc).word] }
  | start {i : Instr} {addr : BitVec 7} {len : Byte} {dir : Dir}
      (hi : (i = .write addr len ∧ dir = .write) ∨ (i = .read addr len ∧ dir = .read ∧ 1 ≤ len.toNat))
      (hbusy : s.busy = false) (hcfg : s.cfgValid = true) (hlen : len.toNat + 1 ≤ p.cap) :
      Effect p s i { s with
        buf := s.buf.put 0 (slaByte addr dir), dlen := reg9 (declaredLength len), cursor := 0, dir := dir,
        ackArmed := false, result := .none, state := .address, actions := s.actions ++ [Action.start.word],
        lastResp := .accepted, reply := some (.response .accepted) }
  | retire (hbusy : s.busy = false) : Effect p s .retire (s.retire.respond .accepted)
  | bufwr {idx data : Byte} (hbusy : s.busy = false) (hpos : 1 ≤ idx.toNat) (hcap : idx.toNat < p.cap) :
      Effect p s (.bufwr idx data) (({ s with buf := s.buf.put idx.toNat data } : State).respond .accepted)
  | event {c : BusEvent} {st d : Byte} {t : State} (h : execWith p (eventInstr c st d) s = .next t) :
      Effect p s (eventInstr c st d) t
  | abort (hbusy : s.busy = true) : Effect p s .timeout (s.abort .timeout)
  | ignored (hbusy : s.busy = false) : Effect p s .timeout s
  | action {i : Instr} {k : Controller} {n : Nat} (haction : i.isAction = true) :
      Effect p s i { s with ctrl := k, draws := n }

theorem effect_of_execWith {p : Params} {i : Instr} {s t : State} (h : execWith p i s = .next t) : Effect p s i t := by
  obtain hcommand | hevent | rfl | haction := port_cases i
  · obtain ⟨hinit, r, rfl⟩ | ⟨div, presc, rfl, hinit⟩ | ⟨addr, len, dir, hi, hbusy, hcfg, hlen, hstart⟩ |
      ⟨rfl, hbusy, rfl⟩ | ⟨idx, data, rfl, hbusy, hpos, hcap, rfl⟩ := command_cases hcommand h
    · exact .responds hcommand hinit
    · cases hinit
      exact .init div presc
    · rw [startTransaction_eq p.cap addr len dir s (Nat.zero_lt_of_lt hlen)] at hstart
      cases hstart
      exact .start hi hbusy hcfg hlen
    · exact .retire hbusy
    · exact .bufwr hbusy hpos hcap
  · obtain ⟨c, st, d, rfl⟩ := exists_eventInstr hevent
    exact .event h
  · obtain ⟨hbusy, rfl⟩ | ⟨hbusy, rfl⟩ := timeout_cases h
    · exact .abort hbusy
    · exact .ignored hbusy
  · rw [action_cases haction h]
    exact .action haction

theorem effect_of_exec {i : Instr} {s t : State} (h : exec i s = .next t) : Effect Config.params s i t :=
  effect_of_execWith ((exec_eq i s).symm.trans h)

end Sys2Proof.Machine
end

section
/-! PROOFS. The invariant (R32, R41, R144, R181): the action queue and its marks apart from the registers, the rule of
each event, and the step. -/

namespace Sys2Proof.Machine

/-! ### The action queue and its marks (R101, R128) -/

/-- The marks that come with an action word emitted: one for a SEND. -/
def sendMark (sla : Bool) (a : Action) : List Bool := if isSendWord a.word then [sla] else []

/-- The invariant's two clauses on the action queue. -/
def State.QueueOk (s : State) : Prop :=
  (∀ w ∈ s.actions, ∃ a : Action, w = a.word) ∧ s.ctrl.sendMarks.length = s.actions.countP isSendWord

theorem State.Inv.queueOk {cap : Nat} {s : State} (h : s.Inv cap) : s.QueueOk := ⟨h.actionsOk, h.marksOk⟩

/-- An action emitted with its mark keeps the queue. -/
theorem State.QueueOk.emit {s t : State} {a : Action} {sla : Bool} (h : s.QueueOk)
    (hactions : t.actions = s.actions ++ [a.word]) (hmarks : t.ctrl.sendMarks = s.ctrl.sendMarks ++ sendMark sla a) :
    t.QueueOk := by
  obtain ⟨hwords, hcount⟩ := h
  refine ⟨fun w hw => ?word, ?count⟩
  case word =>
    rw [hactions, List.mem_append, List.mem_singleton] at hw
    exact hw.elim (hwords w) fun hw => ⟨a, hw⟩
  case count =>
    rw [hactions, hmarks, List.length_append, List.countP_append, hcount, sendMark, List.countP_singleton]
    split <;> rfl

/-- An action that is no SEND comes without a mark. -/
theorem State.QueueOk.emit_unmarked {s t : State} {a : Action} (h : s.QueueOk) (ha : isSendWord a.word = false)
    (hactions : t.actions = s.actions ++ [a.word]) (hmarks : t.ctrl.sendMarks = s.ctrl.sendMarks) : t.QueueOk :=
  h.emit (sla := false) hactions (by rw [hmarks, sendMark, ha, if_neg Bool.false_ne_true, List.append_nil])

/-- AckDecide emits one of the two ARM words and marks nothing (R176). -/
theorem State.ackDecide_emits (s : State) (sla : Bool) :
    ∃ a : Action, s.ackDecide.actions = s.actions ++ [a.word] ∧
      s.ackDecide.ctrl = { s.ctrl with sendMarks := s.ctrl.sendMarks ++ sendMark sla a } := by
  rw [s.ackDecide_eq]
  by_cases h : 1 < s.remaining
  · exact ⟨.armAck, by rw [if_pos h], by simp [sendMark]⟩
  · exact ⟨.armNack, by rw [if_neg h], by simp [sendMark]⟩

/-- A legal event's rule emits one action, a SEND with its mark, and touches no more of the controller. -/
theorem eventRule_emits {cap : Nat} {c : BusEvent} {d : Byte} {s t : State} (h : eventRule cap c d s = .next t) :
    ∃ a : Action, t.actions = s.actions ++ [a.word] ∧
      t.ctrl = { s.ctrl with sendMarks := s.ctrl.sendMarks ++ sendMark (c == .start || c == .repeatedStart) a } := by
  cases c
  case start | repeatedStart =>
    obtain ⟨b, n, rfl⟩ := startRule_cases h
    exact ⟨.send b, rfl, by simp [sendMark]⟩
  case addrAckTx | dataAckTx =>
    obtain ⟨-, -, b, n, rfl⟩ | ⟨-, rfl⟩ := transmitRule_cases h
    · exact ⟨.send b, rfl, by simp [sendMark]⟩
    · exact ⟨.stop, rfl, by simp [sendMark]⟩
  case addrAckRx => cases h; exact s.ackDecide_emits _
  case dataAckRx =>
    obtain ⟨-, rfl⟩ := receiveRule_cases h
    exact State.ackDecide_emits _ _
  case dataNackRx =>
    obtain ⟨-, rfl⟩ := receiveLastRule_cases h
    exact ⟨.stop, rfl, by simp [sendMark]⟩
  case addrNackTx | addrNackRx | dataNackTx | arbitrationLost | unknown =>
    cases h
    exact ⟨.reinit s.cfgDiv s.cfgPresc, rfl, by simp [sendMark]⟩

/-- So does every event step, after the report. -/
theorem event_emits {p : Params} {c : BusEvent} {st d : Byte} {s t : State}
    (h : execWith p (eventInstr c st d) s = .next t) :
    ∃ a : Action, t.actions = s.actions ++ [a.word] ∧ t.ctrl = { (s.reported c st d).ctrl with
      sendMarks := s.ctrl.sendMarks ++ sendMark (c == .start || c == .repeatedStart) a } := by
  obtain ⟨-, rfl⟩ | ⟨-, -, rfl⟩ | ⟨-, -, hrule⟩ := event_cases h
  · exact ⟨.reinit s.cfgDiv s.cfgPresc, rfl, by simp [sendMark, State.reported]⟩
  · exact ⟨.reinit s.cfgDiv s.cfgPresc, rfl, by simp [sendMark, State.reported]⟩
  · exact eventRule_emits hrule

/-! ### What the invariant says of a state -/

/-- A store writes its cell and unwrites none. -/
theorem State.written_of_put {s t : State} {i j : Nat} {v : Byte} (hbuf : t.buf = s.buf.put i v)
    (hj : j = i ∨ s.written j = true) : t.written j = true := by
  rw [State.written, hbuf, Memory.get?_put]
  split
  · rfl
  · exact hj.resolve_left ‹_›

section
variable {cap : Nat} {s : State}

theorem State.Inv.len_of_busy (h : s.Inv cap) (hbusy : s.busy = true) : 1 ≤ s.len ∧ (s.dir = .read → 2 ≤ s.len) := by
  have hphase := h.phase
  obtain hstate | hstate | hstate := s.busy_iff.mp hbusy <;> simp only [State.phaseOk, hstate] at hphase
  · exact hphase.2
  · obtain ⟨hdir, hcur, hlen⟩ := hphase
    exact ⟨by omega, by simp [hdir]⟩
  · obtain ⟨hdir, hcur, hlen, -⟩ := hphase
    omega

theorem State.Inv.result_of_busy (h : s.Inv cap) (hbusy : s.busy = true) : s.result = .none := by
  have hagree := h.agree
  obtain hstate | hstate | hstate := s.busy_iff.mp hbusy <;> simpa only [State.resultAgrees, hstate] using hagree

/-- An acknowledge of a byte sent is legal in a write only, after its SLA byte. -/
theorem State.Inv.of_legal_ackTx {c : BusEvent} (h : s.Inv cap) (hc : c = .addrAckTx ∨ c = .dataAckTx)
    (hlegal : s.legal c = true) : s.dir = .write ∧ 1 ≤ s.cur := by
  obtain rfl | rfl := hc
  · obtain ⟨-, hcur, hdir⟩ := s.legal_addrAckTx_iff.mp hlegal
    exact ⟨hdir, hcur.ge⟩
  · have hphase := h.phase
    simp only [State.phaseOk, s.legal_dataAckTx_iff.mp hlegal] at hphase
    exact ⟨hphase.1, by omega⟩

/-- In DATA_RX a byte is still to come (R181). -/
theorem State.Inv.of_dataRx (h : s.Inv cap) (hstate : s.state = .dataRx) :
    s.dir = .read ∧ 1 ≤ s.cur ∧ s.cur + 1 ≤ s.len ∧ (s.ackArmed = true ↔ 2 ≤ s.remaining) := by
  simpa only [State.phaseOk, hstate] using h.phase

/-- A store at CURSOR in DATA_RX makes the cells 1 to CURSOR written (R144, R146). -/
theorem State.Inv.written_of_store {t : State} {i : Nat} {d : Byte} (h : s.Inv cap) (hstate : s.state = .dataRx)
    (hbuf : t.buf = s.buf.put s.cur d) (hpos : 1 ≤ i) (hi : i ≤ s.cur) : t.written i = true := by
  obtain hlt | rfl := hi.lt_or_eq
  · exact State.written_of_put hbuf (.inr (h.received.1 hstate i hpos hlt))
  · exact State.written_of_put hbuf (.inl rfl)

end

/-! ### What keeps the invariant -/

section
variable {cap : Nat} {s : State}

/-- The invariant does not speak of the turns, the ports to the host and the draws. -/
theorem State.Inv.frame (h : s.Inv cap) (turns : List Turn) (reply : Option Reply) (resp : Resp) (n : Nat) :
    State.Inv cap { s with turns := turns, reply := reply, lastResp := resp, draws := n } :=
  ⟨h.memory, h.cells, h.bounds, h.agree, h.phase, h.sla, h.received, h.configured, h.actionsOk, h.marksOk⟩

theorem State.Inv.reported (h : s.Inv cap) (c : BusEvent) (st d : Byte) : (s.reported c st d).Inv cap :=
  ⟨h.memory, h.cells, h.bounds, h.agree, h.phase, h.sla, h.received, h.configured, h.actionsOk, h.marksOk⟩

theorem State.Inv.after_abort (h : s.Inv cap) {r : Result} (hnone : r ≠ .none) (hok : r ≠ .ok) : (s.abort r).Inv cap :=
  have hqueue : (s.abort r).QueueOk :=
    h.queueOk.emit_unmarked (a := .reinit s.cfgDiv s.cfgPresc) (isSendWord_word _) rfl rfl
  { memory := h.memory, cells := h.cells, bounds := ⟨Nat.zero_le _, h.bounds.2⟩, agree := ⟨hnone, hok⟩, phase := rfl
    sla := nofun, received := ⟨nofun, nofun⟩, configured := nofun
    actionsOk := hqueue.1, marksOk := hqueue.2 }

theorem State.Inv.after_stray (h : s.Inv cap) (hbusy : s.busy = false) : s.strayEvent.Inv cap :=
  have hqueue : s.strayEvent.QueueOk :=
    h.queueOk.emit_unmarked (a := .reinit s.cfgDiv s.cfgPresc) (isSendWord_word _) rfl rfl
  have hphase : s.strayEvent.phaseOk := by
    have hphase := h.phase
    obtain hstate | hstate | hstate := s.not_busy_iff.mp hbusy
    all_goals simp only [State.phaseOk, State.strayEvent_state, hstate] at hphase ⊢
    all_goals exact hphase
  { memory := h.memory, cells := h.cells, bounds := h.bounds, agree := h.agree, phase := hphase
    sla := h.sla, received := h.received, configured := h.configured
    actionsOk := hqueue.1, marksOk := hqueue.2 }

/-! ### The rule of each legal event keeps it (R161 to R172) -/

theorem State.Inv.after_start {t : State} (h : s.Inv cap) (hbusy : s.busy = true) (hqueue : t.QueueOk)
    (hrule : startRule cap s = .next t) : t.Inv cap := by
  obtain ⟨b, n, rfl⟩ := startRule_cases hrule
  obtain ⟨hpos, hread⟩ := h.len_of_busy hbusy
  exact {
    memory := h.memory, cells := h.cells, bounds := ⟨hpos, h.bounds.2⟩, agree := h.result_of_busy hbusy
    phase := ⟨le_rfl, hpos, hread⟩, sla := fun _ => h.sla hbusy, received := ⟨nofun, nofun⟩
    configured := fun _ => h.configured hbusy, actionsOk := hqueue.1, marksOk := hqueue.2 }

/-- A byte sent leaves DATA_TX with CURSOR one further, at most DLEN; the last one acknowledged ends the write. -/
theorem State.Inv.after_transmit {t : State} (h : s.Inv cap) (hbusy : s.busy = true) (hdir : s.dir = .write)
    (hpos : 1 ≤ s.cur) (hqueue : t.QueueOk) (hrule : transmitRule cap s = .next t) : t.Inv cap := by
  obtain ⟨hmore, -, b, n, rfl⟩ | ⟨hdone, rfl⟩ := transmitRule_cases hrule
  · have hsucc := State.cursor_succ_toNat hmore
    exact {
      memory := h.memory, cells := h.cells, bounds := ⟨hsucc.trans_le hmore, h.bounds.2⟩
      agree := h.result_of_busy hbusy
      phase := ⟨hdir, (Nat.succ_le_succ hpos).trans_eq hsucc.symm, hsucc.trans_le hmore⟩
      sla := fun _ => h.sla hbusy, received := ⟨nofun, nofun⟩, configured := fun _ => h.configured hbusy
      actionsOk := hqueue.1, marksOk := hqueue.2 }
  · have hread : s.dir ≠ .read := by rw [hdir]; decide
    exact {
      memory := h.memory, cells := h.cells, bounds := h.bounds, agree := rfl
      phase := ⟨fun _ => h.bounds.1.antisymm hdone, fun hdir => absurd hdir hread⟩
      sla := nofun, received := ⟨nofun, fun _ hdir => absurd hdir hread⟩, configured := nofun
      actionsOk := hqueue.1, marksOk := hqueue.2 }

theorem State.Inv.after_receiveStart {t : State} (h : s.Inv cap) (hbusy : s.busy = true) (hcur : s.cur = 1)
    (hdir : s.dir = .read) (hqueue : t.QueueOk) (hrule : receiveStartRule s = .next t) : t.Inv cap := by
  obtain ⟨-, hread⟩ := h.len_of_busy hbusy
  rw [receiveStartRule, State.ackDecide_eq] at hrule
  cases hrule
  exact {
    memory := h.memory, cells := h.cells, bounds := h.bounds, agree := h.result_of_busy hbusy
    phase := ⟨hdir, hcur.ge, hcur.symm ▸ hread hdir, decide_eq_true_iff⟩
    sla := fun _ => h.sla hbusy, received := ⟨fun _ i hi hlt => absurd (hcur ▸ hlt) (by omega), nofun⟩
    configured := fun _ => h.configured hbusy, actionsOk := hqueue.1, marksOk := hqueue.2 }

/-- A byte stored at CURSOR with more than one remaining leaves CURSOR one further, still below DLEN. -/
theorem State.Inv.after_receive {t : State} {d : Byte} (h : s.Inv cap) (hstate : s.state = .dataRx)
    (hleft : 2 ≤ s.remaining) (hqueue : t.QueueOk) (hrule : receiveRule cap d s = .next t) : t.Inv cap := by
  obtain ⟨hcell, rfl⟩ := receiveRule_cases hrule
  obtain ⟨hdir, hpos, -, -⟩ := h.of_dataRx hstate
  have hbusy : s.busy = true := s.busy_iff.mpr (.inr (.inr hstate))
  obtain ⟨addr, hsla⟩ := h.sla hbusy
  rw [State.remaining] at hleft
  have hsucc : (s.cursor + 1).toNat = s.cur + 1 := State.cursor_succ_toNat (by omega)
  have hcursor : (s.cursor + 1).toNat ≤ s.len := by omega
  have hphase : s.dir = .read ∧ 1 ≤ (s.cursor + 1).toNat ∧ (s.cursor + 1).toNat + 1 ≤ s.len ∧
      (decide (1 < s.len - (s.cursor + 1).toNat) = true ↔ 2 ≤ s.len - (s.cursor + 1).toNat) :=
    ⟨hdir, by omega, by omega, decide_eq_true_iff⟩
  rw [State.ackDecide_eq] at hqueue ⊢
  exact {
    memory := Memory.wf_put _ _ _ h.memory, cells := Memory.within_put _ _ _ _ h.cells hcell
    bounds := ⟨hcursor, h.bounds.2⟩, agree := h.agree
    phase := by simp only [State.phaseOk, hstate]; exact hphase
    sla := fun _ => ⟨addr, (Memory.get?_put_other _ _ _ _ (by omega)).trans hsla⟩
    received := ⟨fun _ i hi hlt => h.written_of_store hstate rfl hi (Nat.le_of_lt_succ (hlt.trans_eq hsucc)),
      fun hend => absurd (hstate.symm.trans hend) (by decide)⟩
    configured := fun _ => h.configured hbusy, actionsOk := hqueue.1, marksOk := hqueue.2 }

/-- The last byte stored at CURSOR fixes DLEN one above it, so 1 to CURSOR are the bytes received (R144). -/
theorem State.Inv.after_receiveLast {t : State} {d : Byte} (h : s.Inv cap) (hstate : s.state = .dataRx)
    (hqueue : t.QueueOk) (hrule : receiveLastRule cap d s = .next t) : t.Inv cap := by
  obtain ⟨hcell, rfl⟩ := receiveLastRule_cases hrule
  obtain ⟨hdir, hpos, hlen, -⟩ := h.of_dataRx hstate
  have hsucc := State.cursor_succ_toNat hlen
  exact {
    memory := Memory.wf_put _ _ _ h.memory, cells := Memory.within_put _ _ _ _ h.cells hcell
    bounds := ⟨(Nat.le_succ _).trans_eq hsucc.symm, hsucc.trans_le (hlen.trans h.bounds.2)⟩, agree := rfl
    phase := ⟨fun hwrite => absurd (hdir.symm.trans hwrite) (by decide), fun _ => ⟨hpos, hsucc.symm⟩⟩
    sla := nofun, received := ⟨nofun, fun _ _ i hi hle => h.written_of_store hstate rfl hi hle⟩
    configured := nofun, actionsOk := hqueue.1, marksOk := hqueue.2 }

theorem State.Inv.after_legalEvent {c : BusEvent} {d : Byte} {t : State} (h : s.Inv cap) (hbusy : s.busy = true)
    (hlegal : s.legal c = true) (hrule : eventRule cap c d s = .next t) : t.Inv cap := by
  obtain ⟨a, hactions, hctrl⟩ := eventRule_emits hrule
  have hqueue : t.QueueOk := h.queueOk.emit hactions (congrArg Controller.sendMarks hctrl)
  cases c
  case start | repeatedStart => exact h.after_start hbusy hqueue hrule
  case addrAckTx =>
    obtain ⟨hdir, hpos⟩ := h.of_legal_ackTx (.inl rfl) hlegal
    exact h.after_transmit hbusy hdir hpos hqueue hrule
  case dataAckTx =>
    obtain ⟨hdir, hpos⟩ := h.of_legal_ackTx (.inr rfl) hlegal
    exact h.after_transmit hbusy hdir hpos hqueue hrule
  case addrAckRx =>
    obtain ⟨-, hcur, hdir⟩ := s.legal_addrAckRx_iff.mp hlegal
    exact h.after_receiveStart hbusy hcur hdir hqueue hrule
  case dataAckRx =>
    obtain ⟨hstate, hleft⟩ := s.legal_dataAckRx_iff.mp hlegal
    exact h.after_receive hstate hleft hqueue hrule
  case dataNackRx => exact h.after_receiveLast (s.legal_dataNackRx_iff.mp hlegal) hqueue hrule
  case addrNackTx | addrNackRx | dataNackTx | arbitrationLost | unknown =>
    cases hrule
    exact h.after_abort (by decide) (by decide)

/-! ### Each input and each step keeps it -/

/-- Each input of the sequencer keeps the invariant. -/
theorem State.Inv.after_input {p : Params} {i : Instr} {t : State} (h : s.Inv p.cap) (hi : i.isAction = false)
    (hrun : execWith p i s = .next t) : t.Inv p.cap := by
  cases effect_of_execWith hrun with
  | responds => exact h.frame _ _ _ _
  | init div presc =>
    obtain ⟨hwords, hmarks⟩ : State.QueueOk _ :=
      h.queueOk.emit_unmarked (t := { s with actions := s.actions ++ [(Action.init div presc).word] })
        (isSendWord_word (.init div presc)) rfl rfl
    exact {
      memory := h.memory, cells := h.cells, bounds := ⟨le_rfl, Nat.zero_le _⟩, agree := rfl, phase := trivial
      sla := nofun, received := ⟨nofun, nofun⟩, configured := nofun, actionsOk := hwords, marksOk := hmarks }
  | @start i addr len dir hdir hbusy hcfg hlen =>
    obtain ⟨hwords, hmarks⟩ : State.QueueOk _ :=
      h.queueOk.emit_unmarked (t := { s with actions := s.actions ++ [Action.start.word] })
        (isSendWord_word .start) rfl rfl
    have hdlen := reg9_declaredLength_toNat len
    have hread (hread : dir = .read) : 1 ≤ len.toNat := by
      obtain ⟨-, hwrite⟩ | ⟨-, -, hpos⟩ := hdir
      · exact absurd (hread.symm.trans hwrite) (by decide)
      · exact hpos
    exact {
      memory := Memory.wf_put _ _ _ h.memory, cells := Memory.within_put _ _ _ _ h.cells (Nat.zero_lt_of_lt hlen)
      bounds := ⟨Nat.zero_le _, hdlen.trans_le hlen⟩, agree := rfl
      phase := ⟨Nat.zero_le _, (Nat.succ_pos _).trans_eq hdlen.symm,
        fun hdir => (Nat.succ_le_succ (hread hdir)).trans_eq hdlen.symm⟩
      sla := fun _ => ⟨addr, Memory.get?_put_self _ _ _⟩, received := ⟨nofun, nofun⟩, configured := fun _ => hcfg
      actionsOk := hwords, marksOk := hmarks }
  | retire hbusy =>
    exact {
      memory := h.memory, cells := h.cells, bounds := h.bounds, agree := rfl, phase := trivial
      sla := nofun, received := ⟨nofun, nofun⟩, configured := nofun, actionsOk := h.actionsOk, marksOk := h.marksOk }
  | bufwr hbusy hpos hcap =>
    have hidle : s.state ≠ .dataRx := fun hstate =>
      absurd (s.busy_iff.mpr (.inr (.inr hstate))) (Bool.eq_false_iff.mp hbusy)
    exact {
      memory := Memory.wf_put _ _ _ h.memory, cells := Memory.within_put _ _ _ _ h.cells hcap
      bounds := h.bounds, agree := h.agree, phase := h.phase
      sla := fun hactive => absurd hactive (Bool.eq_false_iff.mp hbusy)
      received := ⟨fun hstate => absurd hstate hidle,
        fun hend hdir j hj hle => State.written_of_put rfl (.inr (h.received.2 hend hdir j hj hle))⟩
      configured := h.configured, actionsOk := h.actionsOk, marksOk := h.marksOk }
  | event hevent =>
    obtain ⟨hbusy, rfl⟩ | ⟨-, -, rfl⟩ | ⟨hbusy, hlegal, hrule⟩ := event_cases hevent
    · exact (h.reported _ _ _).after_stray hbusy
    · exact (h.reported _ _ _).after_abort (by decide) (by decide)
    · exact (h.reported _ _ _).after_legalEvent hbusy hlegal hrule
  | abort hbusy => exact h.after_abort (by decide) (by decide)
  | ignored hbusy => exact h
  | action haction => exact absurd (haction.symm.trans hi) (by decide)

/-- The controller taking the oldest action, and its mark if it is a SEND. -/
theorem State.Inv.after_action {p : Params} {rest : List Turn} {as : List ActionWord} {a : Action} {t : State}
    (h : s.Inv p.cap) (hactions : s.actions = a.word :: as)
    (hrun : execWith p a.instr { s with turns := rest, actions := as } = .next t) : t.Inv p.cap := by
  obtain ⟨hwords, hcount⟩ := h.queueOk
  have hmarks := action_marks (decodeAction_word a) hrun
  rw [action_cases (isAction_instr a) hrun]
  exact {
    memory := h.memory, cells := h.cells, bounds := h.bounds, agree := h.agree, phase := h.phase, sla := h.sla
    received := h.received, configured := h.configured
    actionsOk := fun w hw => hwords w (hactions ▸ List.mem_cons_of_mem _ hw)
    marksOk := by
      rw [hactions, List.countP_cons] at hcount
      rw [hmarks]
      split <;> simp_all }

/-- Each case of a step keeps the invariant. -/
theorem State.Inv.after_step {p : Params} {t : State} (h : s.Inv p.cap) (hstep : stepWith p s = .next t) :
    t.Inv p.cap := by
  obtain ⟨rest, rfl⟩ | ⟨rest, i, hi, hrun⟩ | ⟨rest, a, hread⟩ | ⟨rest, as, a, hactions, hrun⟩ := stepWith_cases hstep
  · exact h.frame _ _ _ _
  · exact State.Inv.after_input (h.frame _ _ _ _) hi hrun
  · obtain ⟨w, ht⟩ := hostRead_cases hread
    rw [ht]
    exact h.frame _ _ _ _
  · exact h.after_action hactions hrun

end

/-! ### The obligations -/

/-- Settles O54: the reset state is in IDLE, with an empty buffer and an empty queue. -/
theorem resetMeetsTheInvariant : Obligations.ResetMeetsTheInvariant := fun cap =>
  { memory := rfl, cells := rfl, bounds := ⟨le_rfl, Nat.zero_le cap⟩, agree := rfl, phase := trivial, sla := nofun
    received := ⟨nofun, nofun⟩, configured := nofun, actionsOk := nofun, marksOk := rfl }

/-- Settles O55: each of a step's cases keeps the invariant. -/
theorem everyStepKeepsTheInvariant : Obligations.EveryStepKeepsTheInvariant :=
  ⟨fun s _ h hstep => State.Inv.after_step (p := Config.params) h ((step_eq s).symm.trans hstep),
    fun _ _ _ h hstep => h.after_step hstep⟩

/-- Settles O53: the invariant's clauses in COMPLETING with DIR read, and the read port's answer for a written cell. -/
theorem snapshotIsReadable : Obligations.SnapshotIsReadable := by
  intro s h hstate hdir
  have hagree := h.agree
  have hphase := h.phase
  simp only [State.resultAgrees, State.phaseOk, hstate] at hagree hphase
  obtain ⟨hpos, hlen⟩ := hphase.2 hdir
  refine ⟨hagree, by omega, hpos, fun i hi hle => ?_⟩
  obtain ⟨b, hb⟩ := Option.isSome_iff_exists.mp (h.received.2 hstate hdir i hi hle)
  have hcell : i < Config.cap := (Nat.lt_of_lt_of_le (Nat.lt_succ_of_le hle) hlen.le).trans_le h.bounds.2
  have hcap := Config.cap_lt_512
  exact ⟨b, hb, hostRead_written hcell (BitVec.toNat_ofNat _ _ |>.trans (Nat.mod_eq_of_lt (by omega))) hb⟩

end Sys2Proof.Machine
end

section
/-! PROOFS. Every step from a state that meets the invariant answers (R231): each input's accesses to the buffer are in
it (R60, R41), and each queued word is an action (R102). -/

namespace Sys2Proof.Machine

theorem onCommand_answers {checks : List (Bool × Resp)} {rule : State → Out} {s : State}
    (hrule : firstFailed checks = none → ∃ t, rule s = .next t) : ∃ t, onCommand checks rule s = .next t := by
  cases hchecks : firstFailed checks with
  | some r => exact ⟨_, onCommand_rejected rule s hchecks⟩
  | none => rw [onCommand_accepted rule s hchecks]; exact hrule hchecks

/-- A length that passes the check of R143 leaves a cell for the SLA byte. -/
theorem startTransaction_answers {cap : Nat} {len : Byte} (addr : BitVec 7) (dir : Dir) (s : State)
    (hlen : overflows cap len = false) : ∃ t, startTransaction cap addr len dir s = .next t :=
  ⟨_, startTransaction_eq cap addr len dir s (Nat.zero_lt_of_lt ((overflows_eq_false_iff cap len).mp hlen))⟩

/-- A command answers in every state: its checks keep its store inside the buffer. -/
theorem command_answers (p : Params) {i : Instr} (s : State) (hi : i.isCommand = true) :
    ∃ t, execWith p i s = .next t := by
  cases i <;> simp only [Instr.isCommand, encode, Bool.false_eq_true] at hi
  case write addr len =>
    refine onCommand_answers fun hchecks => startTransaction_answers addr .write s ?_
    simp only [firstFailed_cons_none] at hchecks
    exact hchecks.2.2.1
  case read addr len =>
    refine onCommand_answers fun hchecks => startTransaction_answers addr .read s ?_
    simp only [firstFailed_cons_none] at hchecks
    exact hchecks.2.2.1
  case retire =>
    rw [execWith, execRetire]
    exact onCommand_answers fun _ => ⟨_, rfl⟩
  case bufwr idx data =>
    rw [execWith, execBufwrIn]
    refine onCommand_answers fun hchecks => ?_
    simp only [firstFailed_cons_none, badIndex_eq_false_iff] at hchecks
    rw [s.bufWrite_inside p.cap _ data hchecks.2.1.2]
    exact ⟨_, rfl⟩
  all_goals exact ⟨_, rfl⟩

theorem timeout_aborts (p : Params) {s : State} (hbusy : s.busy = true) :
    execWith p .timeout s = .next (s.abort .timeout) :=
  if_pos hbusy

theorem timeout_ignored (p : Params) {s : State} (hbusy : s.busy = false) : execWith p .timeout s = .next s :=
  if_neg (Bool.eq_false_iff.mp hbusy)

theorem timeout_answers (p : Params) (s : State) : ∃ t, execWith p .timeout s = .next t := by
  cases hbusy : s.busy
  · exact ⟨_, timeout_ignored p hbusy⟩
  · exact ⟨_, timeout_aborts p hbusy⟩

theorem action_answers (p : Params) (a : Action) (s : State) : ∃ t, execWith p a.instr s = .next t := by
  cases a <;> exact ⟨_, rfl⟩

/-- The transmit rule reads a cell below DLEN or none. -/
theorem transmitRule_answers {cap : Nat} {s : State} (hcap : s.len ≤ cap) : ∃ t, transmitRule cap s = .next t := by
  obtain hmore | hdone := Nat.lt_or_ge s.cur s.len
  · obtain ⟨t, -, hsend, -⟩ := transmitRule_sends hmore (hmore.trans_le hcap)
    exact ⟨t, hsend⟩
  · exact ⟨_, transmitRule_done cap s hdone⟩

/-- In DATA_RX the cell at CURSOR is below DLEN (R181). -/
theorem State.Inv.cell_of_dataRx {cap : Nat} {s : State} (h : s.Inv cap) (hstate : s.state = .dataRx) : s.cur < cap :=
  have ⟨_, _, hlen, _⟩ := h.of_dataRx hstate
  Nat.lt_of_lt_of_le hlen h.bounds.2

theorem eventRule_answers {cap : Nat} {c : BusEvent} (d : Byte) {s : State} (h : s.Inv cap) (hbusy : s.busy = true)
    (hlegal : s.legal c = true) : ∃ t, eventRule cap c d s = .next t := by
  cases c
  case start | repeatedStart =>
    exact State.sendThen_answers cap _ .address ((h.len_of_busy hbusy).1.trans h.bounds.2)
  case addrAckTx | dataAckTx => exact transmitRule_answers h.bounds.2
  case dataAckRx =>
    exact ⟨_, receiveRule_inside cap s d (h.cell_of_dataRx (s.legal_dataAckRx_iff.mp hlegal).1)⟩
  case dataNackRx =>
    exact ⟨_, receiveLastRule_inside cap s d (h.cell_of_dataRx (s.legal_dataNackRx_iff.mp hlegal))⟩
  case addrAckRx | addrNackTx | addrNackRx | dataNackTx | arbitrationLost | unknown => exact ⟨_, rfl⟩

theorem event_answers {p : Params} (c : BusEvent) (st d : Byte) {s : State} (h : s.Inv p.cap) :
    ∃ t, execWith p (eventInstr c st d) s = .next t := by
  cases hbusy : s.busy
  case false => exact ⟨_, execWith_strayEvent p c st d hbusy⟩
  case true =>
    cases hlegal : s.legal c
    case false => exact ⟨_, execWith_illegalEvent p st d hbusy (Bool.eq_false_iff.mp hlegal)⟩
    case true =>
      rw [execWith_legalEvent p st d hbusy hlegal]
      exact eventRule_answers d (h.reported c st d) hbusy hlegal

/-- Settles O56: turn by turn. -/
theorem errorsNeverStopTheSequencer : Obligations.ErrorsNeverStopTheSequencer := by
  intro p s h hclock
  match hturns : s.turns with
  | [] => exact ⟨s, stepWith_noTurn hclock hturns⟩
  | .command w :: rest =>
    rw [stepWith_command hclock hturns]
    exact command_answers p _ (isCommand_decodeCommand w)
  | .event w :: rest =>
    rw [stepWith_event hclock hturns]
    exact event_answers _ _ _ (h.frame _ _ _ _)
  | .timeout :: rest =>
    rw [stepWith_timeout hclock hturns]
    exact timeout_answers p _
  | .read a :: rest =>
    rw [stepWith_read hclock hturns]
    exact hostRead_answers p.cap a _
  | .controller :: rest =>
    by_cases hactions : s.actions = []
    · exact ⟨_, stepWith_controller_nothing hclock hturns hactions⟩
    · obtain ⟨w, as, hactions⟩ := List.exists_cons_of_ne_nil hactions
      obtain ⟨a, rfl⟩ := h.actionsOk w (hactions ▸ List.mem_cons_self)
      rw [stepWith_action hclock hturns hactions]
      exact action_answers p a _

end Sys2Proof.Machine
end

section
/-! PROOFS. What an input leaves unchanged: memory (R61, R72, R75), the configuration (R37, R38), STRAY (R39), LASTRESP
(R40), FAILED (R237) and the action queue (R120), each by the cases of `Effect`. -/

namespace Sys2Proof.Machine

/-! ### The action queue (R120) -/

/-- Settles O35: INIT, an accepted WRITE or READ and the abort of TIMEOUT emit one action, every other input that is no
event none, and a host read changes the reply and the draws only. -/
theorem actionsPerStepAreBounded : Obligations.ActionsPerStepAreBounded := by
  refine ⟨fun i s t hi h => ?input, fun a s t h => ?read⟩
  case input =>
    cases effect_of_exec h with
    | init div presc => exact .inr ⟨rfl, _, rfl⟩
    | start hload =>
      refine .inr ⟨?_, _, rfl⟩
      obtain ⟨rfl, -⟩ | ⟨rfl, -⟩ := hload <;> rfl
    | abort => exact .inr ⟨rfl, _, rfl⟩
    | event => simp at hi
    | responds | retire | bufwr | ignored | action => exact .inl rfl
  case read =>
    obtain ⟨w, ht⟩ := hostRead_cases h
    rw [ht]

/-! ### Memory (R61, R72, R75) -/

/-- Settles O36: a store is one `put`, and an event's is at CURSOR. -/
theorem storesReachOnlyTheirCell : Obligations.StoresReachOnlyTheirCell := by
  intro i s t h j hj
  cases effect_of_exec h with
  | start hload =>
    refine Memory.get?_put_other _ _ _ _ fun hzero => hj ?_
    obtain ⟨rfl, -⟩ | ⟨rfl, -⟩ := hload <;> exact congrArg some hzero.symm
  | bufwr => exact Memory.get?_put_other _ _ _ _ fun hidx => hj (congrArg some hidx.symm)
  | event hevent =>
    obtain hbuf | ⟨hc, -, hbuf⟩ := event_buf hevent <;> rw [hbuf]
    refine Memory.get?_put_other _ _ _ _ fun hcur => hj ?_
    obtain rfl | rfl := hc <;> exact congrArg some hcur.symm
  | responds | init | retire | abort | ignored | action => rfl

/-- Settles O37: BUFWR's index is at least 1, and so is CURSOR in DATA_RX. -/
theorem onlyLoadsWriteTheSlaCell : Obligations.OnlyLoadsWriteTheSlaCell := by
  intro i s t hinv h hchange
  cases effect_of_exec h with
  | start hload =>
    refine ⟨?_, rfl⟩
    obtain ⟨rfl, -⟩ | ⟨rfl, -⟩ := hload
    · exact ⟨_, _, .inl rfl⟩
    · exact ⟨_, _, .inr rfl⟩
  | bufwr _ hpos => exact absurd (Memory.get?_put_other _ _ _ _ (by omega)) hchange
  | event hevent =>
    obtain hbuf | ⟨-, hstate, hbuf⟩ := event_buf hevent <;> rw [hbuf] at hchange
    · exact absurd rfl hchange
    · obtain ⟨-, hpos, -⟩ := hinv.of_dataRx hstate
      exact absurd (Memory.get?_put_other _ _ _ _ (by omega)) hchange
  | responds | init | retire | abort | ignored | action => exact absurd rfl hchange

/-- Settles O43: while not BUSY an event is stray and TIMEOUT is ignored, and an action word is the controller's. -/
theorem eventsWriteTheBufferOnlyWhileBusy : Obligations.EventsWriteTheBufferOnlyWhileBusy := by
  intro i s t hbusy hi h
  cases effect_of_exec h with
  | event hevent =>
    rw [execWith_strayEvent _ _ _ _ hbusy] at hevent
    cases hevent
    exact ⟨rfl, rfl, rfl, rfl, rfl, rfl⟩
  | abort hactive => simp [hbusy] at hactive
  | ignored | action => exact ⟨rfl, rfl, rfl, rfl, rfl, rfl⟩
  | responds hcommand => simp [hcommand] at hi
  | start hload => obtain ⟨rfl, -⟩ | ⟨rfl, -⟩ := hload <;> cases hi
  | init | retire | bufwr => cases hi

/-! ### Registers that few inputs write (R37 to R40, R237) -/

/-- Settles O38: no event writes them, and of the other inputs INIT alone does. -/
theorem onlyInitWritesTheConfiguration : Obligations.OnlyInitWritesTheConfiguration := by
  intro i s t h
  cases effect_of_exec h with
  | init div presc => exact .inl ⟨div, presc, rfl, rfl, rfl, rfl⟩
  | event hevent =>
    obtain ⟨hdiv, hpresc, hvalid, -⟩ := event_frame hevent
    exact .inr ⟨hdiv, hpresc, hvalid⟩
  | responds | start | retire | bufwr | abort | ignored | action => exact .inr ⟨rfl, rfl, rfl⟩

/-- Settles O39: an event sets STRAY while not BUSY and keeps it otherwise; INIT clears it. -/
theorem strayIsSetByStrayEventsAndClearedByInit : Obligations.StrayIsSetByStrayEventsAndClearedByInit := by
  intro i s t h
  cases effect_of_exec h with
  | init div presc => rfl
  | @event c st d _ hevent =>
    obtain ⟨-, -, -, -, -, -, -, hstray⟩ := event_frame hevent
    rw [hstray]
    cases hbusy : s.busy
    · rw [if_neg Bool.false_ne_true, if_pos ⟨isEvent_eventInstr _ _ _, rfl⟩]
    · cases c <;> rfl
  | responds hcommand hinit =>
    rw [if_neg fun hstray => by simp [not_isEvent_of_isCommand hcommand] at hstray]
    split
    · exact absurd rfl (hinit _ _)
    · rfl
  | start hload => obtain ⟨rfl, -⟩ | ⟨rfl, -⟩ := hload <;> rfl
  | action haction =>
    obtain ⟨a, rfl⟩ := exists_action haction
    cases a <;> rfl
  | retire | bufwr | abort | ignored => rfl

/-- Settles O40: each case of a command ends with its response, and the others keep both registers. -/
theorem onlyCommandsWriteLastResp : Obligations.OnlyCommandsWriteLastResp := by
  intro i s t h
  cases effect_of_exec h with
  | event hevent =>
    obtain ⟨-, -, -, -, hresp, hreply, -⟩ := event_frame hevent
    exact ⟨fun hi => by simp [not_isCommand_of_isEvent] at hi, fun _ => ⟨hresp, hreply⟩⟩
  | responds hcommand => exact ⟨fun _ => rfl, fun hi => by simp [hcommand] at hi⟩
  | start hload =>
    refine ⟨fun _ => rfl, fun hi => ?_⟩
    obtain ⟨rfl, -⟩ | ⟨rfl, -⟩ := hload <;> cases hi
  | init | retire | bufwr => exact ⟨fun _ => rfl, nofun⟩
  | abort | ignored => exact ⟨nofun, fun _ => ⟨rfl, rfl⟩⟩
  | action haction => exact ⟨fun hi => by simp [not_isCommand_of_isAction haction] at hi, fun _ => ⟨rfl, rfl⟩⟩

/-- Settles O42: FAILED is not BUSY, so events are stray and TIMEOUT is ignored; the commands left are the three. -/
theorem failedIsLeftByHostCommandsOnly : Obligations.FailedIsLeftByHostCommandsOnly := by
  intro i s t hfailed h hleft
  have hbusy := State.not_busy_of_failed hfailed
  cases effect_of_exec h with
  | retire => exact .inl ⟨rfl, rfl⟩
  | start hload =>
    refine .inr (.inl ⟨?_, rfl⟩)
    obtain ⟨rfl, -⟩ | ⟨rfl, -⟩ := hload
    · exact ⟨_, _, .inl rfl⟩
    · exact ⟨_, _, .inr rfl⟩
  | init div presc => exact .inr (.inr ⟨⟨div, presc, rfl⟩, rfl⟩)
  | event hevent =>
    rw [execWith_strayEvent _ _ _ _ hbusy] at hevent
    cases hevent
    exact absurd hfailed hleft
  | abort hactive => simp [hbusy] at hactive
  | responds | bufwr | ignored | action => exact absurd hfailed hleft

end Sys2Proof.Machine
end

section
/-! PROOFS. The bus controller (R49, R90, R94, R121 to R127, R131): no rule of the sequencer reads it, what an event and an
action word leave in it, and the obligations on both. -/

namespace Sys2Proof.Machine

/-! ### The sequencer never reads the controller (R49, R131) -/

/-- An access outside the buffer faults, and so does the rule that makes it (R60). -/
theorem State.bufWrite_outside (cap : Nat) (s : State) (i : Nat) (v : Byte) (hi : cap ≤ i) :
    s.bufWrite cap i v = .error (.noSuchCell i) := by
  rw [State.bufWrite, if_neg (Nat.not_lt.mpr hi)]

theorem State.sendThen_outside {cap : Nat} (s : State) (q : Phase) (h : cap ≤ s.cur) :
    s.sendThen cap q = .fault (.noSuchCell s.cur) := by
  rw [State.sendThen, State.sendNext, s.bufRead_outside cap _ h]

theorem receiveRule_outside {cap : Nat} (s : State) (d : Byte) (h : cap ≤ s.cur) :
    receiveRule cap d s = .fault (.noSuchCell s.cur) := by
  rw [receiveRule, s.bufWrite_outside cap _ d h]

theorem receiveLastRule_outside {cap : Nat} (s : State) (d : Byte) (h : cap ≤ s.cur) :
    receiveLastRule cap d s = .fault (.noSuchCell s.cur) := by
  rw [receiveLastRule, s.bufWrite_outside cap _ d h]

theorem startTransaction_outside (addr : BitVec 7) (len : Byte) (dir : Dir) (s : State) :
    startTransaction 0 addr len dir s = .fault (.noSuchCell 0) := by
  rw [startTransaction, State.load, s.bufWrite_outside 0 0 _ le_rfl]

/-- The rule gives the same sequencer outcome whatever the controller holds. -/
def Blind (rule : State → Out) : Prop :=
  ∀ (s : State) (k : Controller), seqPart (rule { s with ctrl := k }) = seqPart (rule s)

theorem State.sendThen_blind (cap : Nat) (q : Phase) (s : State) (k : Controller) :
    seqPart (State.sendThen cap { s with ctrl := k } q) = seqPart (s.sendThen cap q) := by
  obtain hcell | hcell := Nat.lt_or_ge s.cur cap
  · cases hb : s.buf.get? s.cur with
    | some b =>
      rw [s.sendThen_written cap q b hcell hb, State.sendThen_written cap { s with ctrl := k } q b hcell hb]
      rfl
    | none =>
      rw [s.sendThen_unwritten cap q hcell hb, State.sendThen_unwritten cap { s with ctrl := k } q hcell hb]
      rfl
  · rw [s.sendThen_outside q hcell, State.sendThen_outside { s with ctrl := k } q hcell]
    rfl

theorem startRule_blind (cap : Nat) : Blind (startRule cap) := fun s _ =>
  (State.sendThen_blind cap .address { s with cursor := 0 } _).trans (State.sendThen_blind cap .address _ _).symm

theorem transmitRule_more (cap : Nat) {s : State} (hmore : s.cur < s.len) :
    transmitRule cap s = (s.markSend false).sendThen cap .dataTx :=
  if_pos hmore

theorem transmitRule_blind (cap : Nat) : Blind (transmitRule cap) := by
  intro s k
  obtain hmore | hdone := Nat.lt_or_ge s.cur s.len
  · rw [transmitRule_more cap hmore, transmitRule_more cap (s := { s with ctrl := k }) hmore]
    exact (s.sendThen_blind cap .dataTx _).trans (s.sendThen_blind cap .dataTx _).symm
  · rw [transmitRule_done cap s hdone, transmitRule_done cap { s with ctrl := k } hdone]
    rfl

theorem receiveRule_blind (cap : Nat) (d : Byte) : Blind (receiveRule cap d) := by
  intro s k
  obtain hcell | hcell := Nat.lt_or_ge s.cur cap
  · rw [receiveRule_inside cap s d hcell, receiveRule_inside cap { s with ctrl := k } d hcell, State.ackDecide_eq,
      State.ackDecide_eq]
    rfl
  · rw [receiveRule_outside s d hcell, receiveRule_outside { s with ctrl := k } d hcell]
    rfl

theorem receiveLastRule_blind (cap : Nat) (d : Byte) : Blind (receiveLastRule cap d) := by
  intro s k
  obtain hcell | hcell := Nat.lt_or_ge s.cur cap
  · rw [receiveLastRule_inside cap s d hcell, receiveLastRule_inside cap { s with ctrl := k } d hcell]
    rfl
  · rw [receiveLastRule_outside s d hcell, receiveLastRule_outside { s with ctrl := k } d hcell]
    rfl

theorem eventRule_blind (cap : Nat) (c : BusEvent) (d : Byte) : Blind (eventRule cap c d) := by
  cases c
  case start | repeatedStart => exact startRule_blind cap
  case addrAckTx | dataAckTx => exact transmitRule_blind cap
  case dataAckRx => exact receiveRule_blind cap d
  case dataNackRx => exact receiveLastRule_blind cap d
  case addrAckRx =>
    intro s k
    rw [eventRule, receiveStartRule, receiveStartRule, State.ackDecide_eq, State.ackDecide_eq]
    rfl
  case addrNackTx | addrNackRx | dataNackTx | arbitrationLost | unknown => exact fun _ _ => rfl

/-- An event's report changes the controller only, so neither its bytes nor the controller change what a blind rule
does. -/
theorem onEvent_seqPart {rule : State → Out} (hrule : Blind rule) (c : BusEvent) (st st' d d' : Byte) (s : State)
    (k : Controller) :
    seqPart (onEvent c st d rule { s with ctrl := k }) = seqPart (onEvent c st' d' rule s) := by
  cases hbusy : s.busy
  case false =>
    rw [onEvent_stray c st' d' rule s hbusy, onEvent_stray c st d rule { s with ctrl := k } hbusy]
    rfl
  case true =>
    cases hlegal : s.legal c
    case false =>
      rw [onEvent_illegal c st' d' rule s hbusy hlegal, onEvent_illegal c st d rule { s with ctrl := k } hbusy hlegal]
      rfl
    case true =>
      rw [onEvent_legal c st' d' rule s hbusy hlegal, onEvent_legal c st d rule { s with ctrl := k } hbusy hlegal]
      exact (hrule s _).trans (hrule s _).symm

/-- Only the two receive categories' rules read the data byte (R94). -/
theorem eventRule_data {cap : Nat} {c : BusEvent} {d d' : Byte} (h : c = .dataAckRx ∨ c = .dataNackRx → d = d') :
    eventRule cap c d = eventRule cap c d' := by
  cases c
  case dataAckRx => rw [h (.inl rfl)]
  case dataNackRx => rw [h (.inr rfl)]
  all_goals rfl

/-- Settles O33: the two reports differ in the controller, which no rule reads. -/
theorem eventDataIsIgnoredOutsideReceive : Obligations.EventDataIsIgnoredOutsideReceive := by
  intro c st st' data data' s hdata
  rw [exec_eq, exec_eq, execWith_eventInstr, execWith_eventInstr, eventRule_data hdata]
  exact onEvent_seqPart (eventRule_blind _ c data') c st st' data data' s s.ctrl

theorem onCommand_blind (checks : List (Bool × Resp)) {rule : State → Out} (hrule : Blind rule) :
    Blind (onCommand checks rule) := by
  intro s k
  cases hchecks : firstFailed checks with
  | some r =>
    rw [onCommand_rejected rule s hchecks, onCommand_rejected rule _ hchecks]
    rfl
  | none =>
    rw [onCommand_accepted rule s hchecks, onCommand_accepted rule _ hchecks]
    exact hrule s k

theorem startTransaction_blind (cap : Nat) (addr : BitVec 7) (len : Byte) (dir : Dir) :
    Blind (startTransaction cap addr len dir) := by
  intro s k
  obtain rfl | hcap := Nat.eq_zero_or_pos cap
  · rw [startTransaction_outside, startTransaction_outside]
  · rw [startTransaction_eq cap addr len dir _ hcap, startTransaction_eq cap addr len dir s hcap]
    rfl

theorem bufwr_blind (cap : Nat) (idx data : Byte) : Blind (execBufwrIn cap idx data) := by
  intro s k
  rw [execBufwrIn, execBufwrIn]
  refine onCommand_blind _ (fun s k => ?_) s k
  obtain hcell | hcell := Nat.lt_or_ge idx.toNat cap
  · simp only [State.bufWrite_inside cap _ _ data hcell]
    rfl
  · simp only [State.bufWrite_outside cap _ _ data hcell]

theorem command_blind (p : Params) {i : Instr} (hi : i.isCommand = true) : Blind (execWith p i) := by
  cases i <;> simp only [Instr.isCommand, encode, Bool.false_eq_true] at hi
  case write addr len =>
    intro s k
    rw [execWith, execWith, execWriteIn, execWriteIn]
    exact onCommand_blind _ (startTransaction_blind p.cap addr len .write) s k
  case read addr len =>
    intro s k
    rw [execWith, execWith, execReadIn, execReadIn]
    exact onCommand_blind _ (startTransaction_blind p.cap addr len .read) s k
  case retire =>
    intro s k
    rw [execWith, execWith, execRetire, execRetire]
    exact onCommand_blind _ (fun _ _ => rfl) s k
  case bufwr idx data => exact bufwr_blind p.cap idx data
  all_goals exact fun _ _ => rfl

theorem timeout_blind (p : Params) : Blind (execWith p .timeout) := by
  intro s k
  cases hbusy : s.busy
  · rw [timeout_ignored p hbusy, timeout_ignored p (s := { s with ctrl := k }) hbusy]
    rfl
  · rw [timeout_aborts p hbusy, timeout_aborts p (s := { s with ctrl := k }) hbusy]
    rfl

theorem hostRead_blind (cap : Nat) (a : ReadAddr) : Blind (execHostReadIn cap a) := by
  intro s k
  obtain rfl | rfl | rfl | ⟨i, hi, ha⟩ | ⟨ha, hw⟩ := readAddr_cases cap a
  · rfl
  · rfl
  · rfl
  · cases hb : s.buf.get? i with
    | none => rw [hostRead_unwritten hi ha hb, hostRead_unwritten (s := { s with ctrl := k }) hi ha hb]; rfl
    | some b => rw [hostRead_written hi ha hb, hostRead_written (s := { s with ctrl := k }) hi ha hb]; rfl
  · rw [hostRead_unmapped s ha hw, hostRead_unmapped _ ha hw]
    rfl

/-- Settles O44: each input's meaning is blind, an event's because its report changes the controller only. -/
theorem theSequencerNeverReadsTheController : Obligations.TheSequencerNeverReadsTheController := by
  refine ⟨fun i s k hi => ?input, fun a s k => hostRead_blind Config.cap a s k⟩
  case input =>
    rw [exec_eq, exec_eq]
    obtain hcommand | hevent | rfl | haction := port_cases i
    · exact command_blind _ hcommand s k
    · obtain ⟨c, st, d, rfl⟩ := exists_eventInstr hevent
      rw [execWith_eventInstr, execWith_eventInstr]
      exact onEvent_seqPart (eventRule_blind _ c d) c st st d d s k
    · exact timeout_blind _ s k
    · exact absurd (haction.symm.trans hi) (by decide)

/-! ### What an event leaves in the controller (R49, R90) -/

/-- An action whose word is a SEND's is one. -/
theorem exists_send {a : Action} (h : isSendWord a.word = true) : ∃ b, a = .send b := by
  cases a with
  | send b => exact ⟨b, rfl⟩
  | init | start | armAck | armNack | stop | reinit => simp at h

/-- Settles O32: the report, and the mark that comes with the one action emitted. -/
theorem eventsUpdateTheControllersFlags : Obligations.EventsUpdateTheControllersFlags := by
  intro c status data s t h
  rw [exec_eq] at h
  obtain ⟨a, hactions, hctrl⟩ := event_emits h
  refine ⟨?report, fun b hsend => ?marked, fun hother => ?unmarked⟩
  case report => cases c <;> simp [hctrl, State.reported]
  case marked =>
    have hword : a.word = (Action.send b).word := by simpa using hactions.symm.trans hsend
    rw [hctrl, sendMark, hword]
    cases c <;> simp
  case unmarked =>
    have ha : isSendWord a.word = false := by
      refine Bool.eq_false_iff.mpr fun hsend => ?_
      obtain ⟨b, rfl⟩ := exists_send hsend
      exact hother b hactions
    rw [hctrl, sendMark, if_neg (Bool.eq_false_iff.mp ha)]
    exact List.append_nil _

/-! ### What an action word leaves in the controller (R121 to R127) -/

/-- Settles O45: the meaning of each word; for SEND, whether the oldest mark is there and true. -/
theorem actionWordsActOnTheController : Obligations.ActionWordsActOnTheController := by
  intro div b presc s
  refine ⟨rfl, rfl, ?send, rfl, rfl, rfl, _, _, rfl⟩
  case send =>
    rw [exec, execActSend, Controller.send, slaDir]
    cases s.ctrl.sendMarks <;> simp [Controller.release]

/-- A releasing action clears the event-pending flag (R127). -/
theorem eventPending_of_releases {p : Params} {a : Action} {s t : State} (ha : releases a = true)
    (h : execWith p a.instr s = .next t) : t.ctrl.eventPending = false := by
  cases a <;> cases ha <;> cases h <;> rfl

theorem event_outsideSpec {p : Params} {c : BusEvent} {st d : Byte} {s t : State}
    (h : execWith p (eventInstr c st d) s = .next t) (ok : ClockOk) : t.outsideSpec ok = s.outsideSpec ok := by
  obtain ⟨hdiv, hpresc, hvalid, -⟩ := event_frame h
  rw [State.outsideSpec, State.outsideSpec, hdiv, hpresc, hvalid]

/-- Settles O46: the one action that an event emits releases, and its meaning touches the controller only. -/
theorem takingTheEmittedActionReleasesTheEvent : Obligations.TakingTheEmittedActionReleasesTheEvent := by
  intro p i s t hclock hi hactions h
  obtain ⟨c, st, d, rfl⟩ := exists_eventInstr hi
  obtain ⟨a, ha, hword⟩ := event_releases h
  rw [hactions, List.nil_append] at hword
  obtain ⟨u, hu⟩ := action_answers p a { t with turns := [], actions := [] }
  have hstep := stepWith_action (s := { t with turns := [.controller] }) ((event_outsideSpec h _).trans hclock) rfl hword
  have hframe := action_cases (isAction_instr a) hu
  exact ⟨u, hstep.trans hu, eventPending_of_releases ha hu, congrArg State.actions hframe, hframe⟩

end Sys2Proof.Machine
end

section
/-! PROOFS. The controller contract (R128): an event that it allows is legal, inputs that keep it keep the controller in
step, and an answer may cross a recovery. -/

namespace Sys2Proof.Machine

/-! ### What the contract allows -/

theorem State.contractAllows_iff (s : State) (c : BusEvent) :
    s.contractAllows c = true ↔ s.ctrl.eventPending = false ∧ (c = .unknown ∨ s.ctrl.mayAnswer c = true) := by
  simp [State.contractAllows, State.mayReport]

/-! ### What answers each thing asked (R128 b to e) -/

section
variable {k : Controller} {c : BusEvent}

theorem Controller.answers_start (hasked : k.asked = .start) (h : k.mayAnswer c = true) :
    c = .start ∨ c = .repeatedStart ∨ c = .arbitrationLost := by
  rw [Controller.mayAnswer, hasked] at h
  simpa using (Bool.and_eq_true_iff.mp h).2

theorem Controller.answers_slaByte_write (hasked : k.asked = .slaByte .write) (h : k.mayAnswer c = true) :
    c = .addrAckTx ∨ c = .addrNackTx ∨ c = .arbitrationLost := by
  rw [Controller.mayAnswer, hasked] at h
  simpa using h

theorem Controller.answers_slaByte_read (hasked : k.asked = .slaByte .read) (h : k.mayAnswer c = true) :
    c = .addrAckRx ∨ c = .addrNackRx ∨ c = .arbitrationLost := by
  rw [Controller.mayAnswer, hasked] at h
  simpa using h

theorem Controller.answers_dataByte (hasked : k.asked = .dataByte) (h : k.mayAnswer c = true) :
    c = .dataAckTx ∨ c = .dataNackTx ∨ c = .arbitrationLost := by
  rw [Controller.mayAnswer, hasked] at h
  simpa using h

theorem Controller.answers_ack (hasked : k.asked = .receive .ack) (h : k.mayAnswer c = true) :
    c = .dataAckRx ∨ c = .arbitrationLost := by
  rw [Controller.mayAnswer, hasked] at h
  simpa using h

theorem Controller.answers_nack (hasked : k.asked = .receive .nack) (h : k.mayAnswer c = true) :
    c = .dataNackRx ∨ c = .arbitrationLost := by
  rw [Controller.mayAnswer, hasked] at h
  simpa using h

theorem Controller.no_answer_silence (hasked : k.asked = .silence) : k.mayAnswer c = false := by
  rw [Controller.mayAnswer, hasked]

end

/-! ### An answer is legal in the state that waits for it -/

section
variable {cap : Nat} {s : State} {c : BusEvent}

theorem legal_of_address (hstep : s.inStep) (hstate : s.state = .address) (hcur : s.cur ≤ 1)
    (hanswer : s.ctrl.mayAnswer c = true) : s.legal c = true ∧ c ≠ .dataNackRx := by
  obtain ⟨-, -, hasked⟩ := hstep
  simp only [hstate] at hasked
  by_cases hzero : s.cur = 0
  · rw [if_pos hzero] at hasked
    obtain rfl | rfl | rfl := Controller.answers_start hasked.1 hanswer <;> exact ⟨rfl, by decide⟩
  · rw [if_neg hzero] at hasked
    have hone : s.cur = 1 := by omega
    cases hdir : s.dir <;> rw [hdir] at hasked
    · obtain rfl | rfl | rfl := Controller.answers_slaByte_write hasked hanswer
      · exact ⟨s.legal_addrAckTx_iff.mpr ⟨hstate, hone, hdir⟩, by decide⟩
      all_goals exact ⟨rfl, by decide⟩
    · obtain rfl | rfl | rfl := Controller.answers_slaByte_read hasked hanswer
      · exact ⟨s.legal_addrAckRx_iff.mpr ⟨hstate, hone, hdir⟩, by decide⟩
      all_goals exact ⟨rfl, by decide⟩

theorem legal_of_dataTx (hstep : s.inStep) (hstate : s.state = .dataTx) (hanswer : s.ctrl.mayAnswer c = true) :
    s.legal c = true ∧ c ≠ .dataNackRx := by
  obtain ⟨-, -, hasked⟩ := hstep
  simp only [hstate] at hasked
  obtain rfl | rfl | rfl := Controller.answers_dataByte hasked hanswer
  · exact ⟨s.legal_dataAckTx_iff.mpr hstate, by decide⟩
  all_goals exact ⟨rfl, by decide⟩

/-- The level armed is the one that AckDecide chose, so it tells whether the byte is the last (R176). -/
theorem legal_of_dataRx (h : s.Inv cap) (hstep : s.inStep) (hstate : s.state = .dataRx)
    (hanswer : s.ctrl.mayAnswer c = true) : s.legal c = true ∧ (c = .dataNackRx → s.cur + 1 = s.len) := by
  obtain ⟨-, -, hasked⟩ := hstep
  simp only [hstate] at hasked
  obtain ⟨-, -, hlen, harmed⟩ := h.of_dataRx hstate
  cases hack : s.ackArmed <;> rw [hack] at hasked
  · have hlast : ¬ 2 ≤ s.len - s.cur := fun hmore => by simp [harmed.mpr hmore] at hack
    obtain rfl | rfl := Controller.answers_nack hasked hanswer
    · exact ⟨s.legal_dataNackRx_iff.mpr hstate, fun _ => by omega⟩
    · exact ⟨rfl, nofun⟩
  · obtain rfl | rfl := Controller.answers_ack hasked hanswer
    · exact ⟨s.legal_dataAckRx_iff.mpr ⟨hstate, harmed.mp hack⟩, nofun⟩
    · exact ⟨rfl, nofun⟩

/-- While not BUSY the controller in step was last asked for silence, or for nothing yet. -/
theorem State.inStep.asked_of_not_busy (hstep : s.inStep) (hbusy : s.busy = false) :
    s.ctrl.asked = .silence ∨ (s.state = .idle ∧ s.ctrl.asked = .nothingYet) := by
  obtain ⟨-, -, hasked⟩ := hstep
  obtain hstate | hstate | hstate := s.not_busy_iff.mp hbusy <;> simp only [hstate] at hasked
  · exact hasked.imp_right fun h => ⟨hstate, h⟩
  · exact .inl hasked
  · exact .inl hasked

end

/-- Settles O47: Unknown is legal in every ACTIVE state, and a named category answers what the state waits for. -/
theorem contractEventsAreLegal : Obligations.ContractEventsAreLegal := by
  intro cap s c h hstep hallows
  obtain ⟨-, rfl | hanswer⟩ := (s.contractAllows_iff c).mp hallows
  · exact ⟨fun _ => ⟨rfl, nofun⟩, fun _ => .inl rfl⟩
  refine ⟨fun hbusy => ?busy, fun hbusy => ?notBusy⟩
  case busy =>
    have hphase := h.phase
    obtain hstate | hstate | hstate := s.busy_iff.mp hbusy
    · simp only [State.phaseOk, hstate] at hphase
      exact (legal_of_address hstep hstate hphase.1 hanswer).imp_right fun hne hc => absurd hc hne
    · exact (legal_of_dataTx hstep hstate hanswer).imp_right fun hne hc => absurd hc hne
    · exact legal_of_dataRx h hstep hstate hanswer
  case notBusy =>
    obtain hasked | ⟨-, hasked⟩ := hstep.asked_of_not_busy hbusy
    · exact absurd hanswer (Bool.eq_false_iff.mp (Controller.no_answer_silence hasked))
    · exact .inr hasked

/-! ### Keeping the controller in step -/

section
variable {p : Params} {s t u : State} {a : Action}

/-- The controller's turn takes the one word that is queued. -/
theorem State.feed_controller (hclock : t.outsideSpec p.clockOk = false) (hactions : t.actions = [a.word])
    (hrun : execWith p a.instr { t with turns := [], actions := [] } = .next u) : t.feed p [.controller] = .next u := by
  have hstep : stepWith p { t with turns := [.controller] } = .next u :=
    (stepWith_action (s := { t with turns := [.controller] }) hclock rfl hactions).trans hrun
  simp only [State.feed, List.length_singleton, Host.Core.run, coreWith, hstep]

theorem State.feed_controller_nothing (hclock : t.outsideSpec p.clockOk = false) (hactions : t.actions = []) :
    t.feed p [.controller] = .next { t with turns := [] } := by
  have hstep : stepWith p { t with turns := [.controller] } = .next { t with turns := [] } :=
    stepWith_controller_nothing (s := { t with turns := [.controller] }) hclock rfl hactions
  simp only [State.feed, List.length_singleton, Host.Core.run, coreWith, hstep]

/-- The actions after which the contract allows no named event until the next START (R128 f). -/
def silences : Action → Bool
  | .init _ _ => true
  | .start => false
  | .send _ => false
  | .armAck => false
  | .armNack => false
  | .stop => true
  | .reinit _ _ => true

theorem asked_of_silences (ha : silences a = true) (hrun : execWith p a.instr s = .next u) :
    u.ctrl.asked = .silence ∧ u.ctrl.eventPending = false := by
  cases a <;> cases ha <;> cases hrun <;> exact ⟨rfl, rfl⟩

/-- The controller is in step with the sequencer once its turn has completed. -/
def State.Settles (p : Params) (t : State) : Prop := ∃ u, t.feed p [.controller] = .next u ∧ u.inStep

/-- A step out of BUSY, or outside it, whose word asks for silence. -/
theorem State.settles_silent (hclock : t.outsideSpec p.clockOk = false) (hactions : t.actions = [a.word])
    (ha : silences a = true) (hbusy : t.busy = false) : t.Settles p := by
  obtain ⟨u, hrun⟩ := action_answers p a { t with turns := [], actions := [] }
  obtain ⟨hasked, hpending⟩ := asked_of_silences ha hrun
  have hframe := action_cases (isAction_instr a) hrun
  have hempty : u.actions = [] := congrArg State.actions hframe
  refine ⟨u, State.feed_controller hclock hactions hrun, hempty, hpending, ?_⟩
  have hstate : u.state = t.state := by rw [hframe]
  obtain h | h | h := t.not_busy_iff.mp hbusy <;> simp only [hstate, h]
  · exact .inl hasked
  · exact hasked
  · exact hasked

/-- A step that emits nothing settles if it leaves the controller in step. -/
theorem State.settles_nothing (hclock : t.outsideSpec p.clockOk = false) (hstep : t.inStep) : t.Settles p :=
  ⟨_, State.feed_controller_nothing hclock hstep.1, hstep⟩

theorem slaDir_slaByte (addr : BitVec 7) (dir : Dir) : slaDir (slaByte addr dir) = dir := by
  cases dir <;> simp [slaDir, slaByte, Dir.code]

end

/-- In step, each SEND has been taken, so no mark is left. -/
theorem State.Inv.no_marks {cap : Nat} {s : State} (h : s.Inv cap) (hactions : s.actions = []) :
    s.ctrl.sendMarks = [] := by
  have hmarks := h.marksOk
  rw [hactions, List.countP_nil] at hmarks
  exact List.length_eq_zero_iff.mp hmarks

/-- The controller takes the level that AckDecide has armed (R124, R176). -/
theorem State.ackDecide_settles {p : Params} {s : State} (hactions : s.actions = []) (hstate : s.state = .dataRx)
    (hclock : s.outsideSpec p.clockOk = false) : s.ackDecide.Settles p := by
  obtain hmore | hlast := Nat.lt_or_ge 1 s.remaining
  · rw [State.ackDecide_ack hmore, hactions]
    refine ⟨_, State.feed_controller (a := .armAck) hclock rfl rfl, rfl, rfl, ?_⟩
    simp only [hstate]
    rfl
  · rw [State.ackDecide_nack hlast, hactions]
    refine ⟨_, State.feed_controller (a := .armNack) hclock rfl rfl, rfl, rfl, ?_⟩
    simp only [hstate]
    rfl

/-- The controller takes the SLA byte, whose mark is the only one left, with its direction (R104). -/
theorem startRule_settles {p : Params} {s t : State} (h : s.Inv p.cap) (hactions : s.actions = [])
    (hbusy : s.busy = true) (hrule : startRule p.cap s = .next t) (hclock : s.outsideSpec p.clockOk = false) :
    t.Settles p := by
  obtain ⟨addr, hsla⟩ := h.sla hbusy
  have hcap : 0 < p.cap := (h.len_of_busy hbusy).1.trans h.bounds.2
  rw [startRule_written p.cap s (slaByte addr s.dir) hcap hsla, hactions] at hrule
  cases hrule
  refine ⟨_, State.feed_controller (a := .send (slaByte addr s.dir)) hclock rfl rfl, rfl, rfl, ?_⟩
  simp [Controller.send, h.no_marks hactions, slaDir_slaByte, State.cur]

/-- The controller takes a data byte or STOP. -/
theorem transmitRule_settles {p : Params} {s t : State} (h : s.Inv p.cap) (hactions : s.actions = [])
    (hrule : transmitRule p.cap s = .next t) (hclock : s.outsideSpec p.clockOk = false) : t.Settles p := by
  obtain ⟨-, -, b, n, rfl⟩ | ⟨-, rfl⟩ := transmitRule_cases hrule
  · refine ⟨_, State.feed_controller (a := .send b) hclock (congrArg (· ++ _) hactions) rfl, rfl, rfl, ?_⟩
    simp [Controller.send, h.no_marks hactions]
  · exact State.settles_silent (a := .stop) hclock (congrArg (· ++ _) hactions) rfl rfl

theorem eventRule_settles {p : Params} {c : BusEvent} {d : Byte} {s t : State} (h : s.Inv p.cap)
    (hactions : s.actions = []) (hbusy : s.busy = true) (hlegal : s.legal c = true)
    (hrule : eventRule p.cap c d s = .next t) (hclock : s.outsideSpec p.clockOk = false) : t.Settles p := by
  cases c
  case start | repeatedStart => exact startRule_settles h hactions hbusy hrule hclock
  case addrAckTx | dataAckTx => exact transmitRule_settles h hactions hrule hclock
  case addrAckRx =>
    rw [eventRule, receiveStartRule_eq] at hrule
    cases hrule
    exact State.ackDecide_settles hactions rfl hclock
  case dataAckRx =>
    obtain ⟨-, rfl⟩ := receiveRule_cases hrule
    exact State.ackDecide_settles hactions (s.legal_dataAckRx_iff.mp hlegal).1 hclock
  case dataNackRx =>
    obtain ⟨-, rfl⟩ := receiveLastRule_cases hrule
    exact State.settles_silent (a := .stop) hclock (congrArg (· ++ _) hactions) rfl rfl
  case addrNackTx | addrNackRx | dataNackTx | arbitrationLost | unknown =>
    cases hrule
    exact State.settles_silent (a := .reinit s.cfgDiv s.cfgPresc) hclock (congrArg (· ++ _) hactions) rfl rfl

theorem event_settles {p : Params} {c : BusEvent} {st d : Byte} {s t : State} (h : s.Inv p.cap)
    (hactions : s.actions = []) (hrun : execWith p (eventInstr c st d) s = .next t)
    (hclock : t.outsideSpec p.clockOk = false) : t.Settles p := by
  have hclock' := (event_outsideSpec hrun p.clockOk).symm.trans hclock
  obtain ⟨hbusy, rfl⟩ | ⟨-, -, rfl⟩ | ⟨hbusy, hlegal, hrule⟩ := event_cases hrun
  · exact State.settles_silent (a := .reinit s.cfgDiv s.cfgPresc) hclock (congrArg (· ++ _) hactions) rfl hbusy
  · exact State.settles_silent (a := .reinit s.cfgDiv s.cfgPresc) hclock (congrArg (· ++ _) hactions) rfl rfl
  · exact eventRule_settles (h.reported c st d) hactions hbusy hlegal hrule hclock'

/-- Settles O48: each input emits at most one word, and the controller taking it is asked for what the next state waits
for. The contract's premise on an event is not needed: an event that is not the answer aborts, and its REINIT asks for
silence. -/
theorem contractKeepsTheControllerInStep : Obligations.ContractKeepsTheControllerInStep := by
  refine ⟨⟨rfl, rfl, .inr rfl⟩, fun p i s t h hstep hi _ hrun hclock => ?_⟩
  have hactions := hstep.1
  cases effect_of_execWith hrun with
  | init div presc =>
    exact State.settles_silent (a := .init div presc) hclock (congrArg (· ++ _) hactions) rfl rfl
  | start =>
    refine ⟨_, State.feed_controller (a := .start) hclock (congrArg (· ++ _) hactions) rfl, rfl, hstep.2.1, ?_⟩
    exact ⟨rfl, rfl⟩
  | retire hbusy =>
    refine State.settles_nothing hclock ⟨hactions, hstep.2.1, ?_⟩
    exact (hstep.asked_of_not_busy hbusy).imp_right And.right
  | event hevent => exact event_settles h hactions hevent hclock
  | abort =>
    exact State.settles_silent (a := .reinit s.cfgDiv s.cfgPresc) hclock (congrArg (· ++ _) hactions) rfl rfl
  | responds | bufwr | ignored => exact State.settles_nothing hclock hstep
  | action haction => exact absurd (haction.symm.trans hi) (by decide)

/-! ### An answer that crosses a recovery (R234 a) -/

/-- Settles O49: TIMEOUT and INIT change nothing of the controller and leave BUSY, so the answer is still allowed and
is stray. -/
theorem anAnswerMayCrossARecovery : Obligations.AnAnswerMayCrossARecovery := by
  intro p c status data div presc s hbusy hallows
  refine ⟨⟨_, _, timeout_aborts p hbusy, hallows, execWith_strayEvent p c status data rfl, rfl, rfl, rfl, rfl, ?_⟩,
    ⟨_, _, rfl, hallows, execWith_strayEvent p c status data rfl, rfl, rfl, rfl, rfl, ?_⟩⟩
  · exact List.append_assoc _ _ _
  · exact List.append_assoc _ _ _

end Sys2Proof.Machine
end

section
/-! PROOFS. The acceptance checks in their order (R140, R143, R200, R235), for every capacity, and two inputs offered
together in either order (R234). -/

namespace Sys2Proof.Machine

/-! ### The checks of WRITE and READ (R200) -/

section
variable {cap : Nat} {s : State}

theorem write_notInit (addr : BitVec 7) (len : Byte) (hbusy : s.busy = false) (hcfg : s.cfgValid = false) :
    execWriteIn cap addr len s = .next (s.respond .rejNotInit) :=
  onCommand_rejected _ s (by simp [hbusy, hcfg])

theorem read_notInit (addr : BitVec 7) (len : Byte) (hbusy : s.busy = false) (hcfg : s.cfgValid = false) :
    execReadIn cap addr len s = .next (s.respond .rejNotInit) :=
  onCommand_rejected _ s (by simp [hbusy, hcfg])

theorem overflows_iff (cap : Nat) (len : Byte) : overflows cap len = true ↔ cap < len.toNat + 1 := by
  simp [overflows, declaredLength]

theorem write_overflow {len : Byte} (addr : BitVec 7) (hbusy : s.busy = false) (hcfg : s.cfgValid = true)
    (hlen : cap < len.toNat + 1) : execWriteIn cap addr len s = .next (s.respond .rejOverflow) :=
  onCommand_rejected _ s (by simp [hbusy, hcfg, (overflows_iff cap len).mpr hlen])

theorem read_overflow {len : Byte} (addr : BitVec 7) (hbusy : s.busy = false) (hcfg : s.cfgValid = true)
    (hlen : cap < len.toNat + 1) : execReadIn cap addr len s = .next (s.respond .rejOverflow) :=
  onCommand_rejected _ s (by simp [hbusy, hcfg, (overflows_iff cap len).mpr hlen])

theorem read_zeroLen {len : Byte} (addr : BitVec 7) (hbusy : s.busy = false) (hcfg : s.cfgValid = true)
    (hcap : 0 < cap) (hlen : len.toNat = 0) : execReadIn cap addr len s = .next (s.respond .rejZeroLen) :=
  onCommand_rejected _ s
    (by simp [hbusy, hcfg, (overflows_eq_false_iff cap len).mpr (by omega : len.toNat + 1 ≤ cap), hlen])

end

/-- Settles O16: each check's rejection, once those before it have passed. -/
theorem rejectionsFollowTheOrderOfChecks : Obligations.RejectionsFollowTheOrderOfChecks := by
  intro addr len idx data s rejected
  refine ⟨fun hbusy => ?busy, fun hbusy hcfg => ?notInit, fun hbusy hcfg hlen => ?overflow,
    fun hbusy hcfg hlen => ?zeroLen, fun hbusy hidx => ?index⟩
  case busy =>
    exact ⟨write_busy Config.cap addr len hbusy, read_busy Config.cap addr len hbusy, retire_busy hbusy,
      bufwr_busy Config.cap idx data hbusy⟩
  case notInit => exact ⟨write_notInit addr len hbusy hcfg, read_notInit addr len hbusy hcfg⟩
  case overflow => exact ⟨write_overflow addr hbusy hcfg hlen, read_overflow addr hbusy hcfg hlen⟩
  case zeroLen => exact read_zeroLen addr hbusy hcfg Config.cap_pos hlen
  case index => exact bufwr_badIndex data hbusy hidx

/-- Settles O20: the checks of WRITE, READ and BUFWR, and the end of the buffer window, each at any CAP. -/
theorem everyCapacityDecidesTheChecks : Obligations.EveryCapacityDecidesTheChecks := by
  intro p addr len idx data a s
  refine ⟨fun hbusy hcfg i hi => ⟨fun hlen => ?accepted, fun hlen => ?overflow⟩, fun hbusy hpos hcap => ?stored,
    fun hbusy hcap => bufwr_badIndex data hbusy (.inr hcap), fun i b hi ha hb => hostRead_written hi ha hb,
    fun ha => ?outside⟩
  case accepted =>
    obtain ⟨dir, hstart⟩ : ∃ dir, execWith p i s = startTransaction p.cap addr len dir s := by
      obtain rfl | ⟨rfl, hpos⟩ := hi
      · exact ⟨_, write_accepted addr hbusy hcfg hlen⟩
      · exact ⟨_, read_accepted addr hbusy hcfg hlen hpos⟩
    rw [hstart, startTransaction_eq p.cap addr len dir s (Nat.zero_lt_of_lt hlen)]
    exact ⟨_, rfl, rfl, rfl, reg9_declaredLength_toNat len⟩
  case overflow =>
    obtain rfl | ⟨rfl, -⟩ := hi
    · exact write_overflow addr hbusy hcfg hlen
    · exact read_overflow addr hbusy hcfg hlen
  case stored => exact ⟨_, bufwr_accepted data hbusy hpos hcap, rfl, s.buf.get?_put_self _ _⟩
  case outside => exact hostRead_unmapped s (by omega) (.inr ha)

/-! ### Two inputs offered together (R234) -/

theorem State.feed_timeout {p : Params} {s t : State} {us : List Turn} (hclock : s.outsideSpec p.clockOk = false)
    (hrun : execWith p .timeout (s.take us) = .next t) (hturns : t.turns = us) :
    s.feed p (.timeout :: us) = t.feed p us :=
  State.feed_cons hclock hrun hturns

/-- In DATA_TX with all bytes sent, DataAckTx ends the write (R164). -/
theorem State.feed_lastAck {p : Params} {s : State} {w : EventWord} (us : List Turn)
    (hclock : s.outsideSpec p.clockOk = false) (hstate : s.state = .dataTx) (hcur : s.cur = s.len)
    (hw : p.status.category (w.extractLsb' 8 8) = .dataAckTx) :
    s.feed p (.event w :: us) = (s.taken .dataAckTx w us).complete.feed p us :=
  State.AwaitsAckTx.feed (.inr ⟨rfl, hstate⟩) hclock hw (transmitRule_done _ _ hcur.ge)

/-- A WRITE that is not accepted while BUSY leaves the transaction to go on (R235). -/
theorem State.feed_write_busy {p : Params} {s : State} (addr : BitVec 7) (len : Byte) (us : List Turn)
    (hclock : s.outsideSpec p.clockOk = false) (hbusy : s.busy = true) :
    s.feed p (.command (transferWord 2 addr len) :: us) = ((s.take us).respond .rejBusy).feed p us := by
  refine State.feed_command hclock ?_ rfl
  rw [decodeCommand_transferWord_write]
  exact write_busy p.cap addr len hbusy

/-- A WRITE that is accepted starts its transaction (R203). -/
theorem State.feed_write_accepted {p : Params} {s : State} {len : Byte} (addr : BitVec 7) (us : List Turn)
    (hclock : s.outsideSpec p.clockOk = false) (hbusy : s.busy = false) (hcfg : s.cfgValid = true)
    (hlen : len.toNat + 1 ≤ p.cap) :
    ∃ t, s.feed p (.command (transferWord 2 addr len) :: us) = t.feed p us ∧
      (s.take us).Started t len .write (slaByte addr .write) := by
  obtain ⟨t, hrun, hstarted⟩ := startTransaction_started addr len .write (s.take us) (Nat.zero_lt_of_lt hlen)
  refine ⟨t, State.feed_command hclock ?_ ?_, hstarted⟩
  · rw [decodeCommand_transferWord_write]
    exact (write_accepted (s := s.take us) addr hbusy hcfg hlen).trans hrun
  · obtain ⟨-, -, -, ht⟩ := hstarted
    rw [ht, State.take_turns]

/-- Settles O59: the last acknowledge leaves BUSY, so TIMEOUT is ignored; TIMEOUT leaves BUSY, so the acknowledge is
stray. -/
theorem eventAndTimeoutInEitherOrder : Obligations.EventAndTimeoutInEitherOrder := by
  intro p s w hclock hstate hcur hw
  have hbusy : s.busy = true := s.busy_iff.mpr (.inr (.inl hstate))
  refine ⟨?eventFirst, ?timeoutFirst⟩
  case eventFirst =>
    have hevent := State.feed_lastAck [.timeout] hclock hstate hcur hw
    have htimeout := State.feed_timeout (us := []) (s := (s.taken .dataAckTx w [.timeout]).complete) hclock
      (timeout_ignored p rfl) rfl
    exact ⟨_, hevent.trans htimeout, rfl, rfl, rfl, rfl⟩
  case timeoutFirst =>
    have htimeout := State.feed_timeout (us := [.event w]) hclock (timeout_aborts p hbusy) rfl
    have hevent := State.feed_event (us := []) (s := (s.take [.event w]).abort .timeout) hclock hw
      (execWith_strayEvent p _ _ _ rfl)
    exact ⟨_, htimeout.trans hevent, rfl, rfl, rfl, List.append_assoc _ _ _⟩

/-- Settles O60: WRITE is rejected while the old write is BUSY, and accepted once the acknowledge has ended it. -/
theorem commandAndLastEventInEitherOrder : Obligations.CommandAndLastEventInEitherOrder := by
  intro p s w addr len hclock hcfg hlen hstate hcur hw write
  have hbusy : s.busy = true := s.busy_iff.mpr (.inr (.inl hstate))
  refine ⟨?commandFirst, ?eventFirst⟩
  case commandFirst =>
    have hcommand := State.feed_write_busy addr len [.event w] hclock hbusy
    have hevent := State.feed_lastAck [] (s := (s.take [.event w]).respond .rejBusy) hclock hstate hcur hw
    exact ⟨_, hcommand.trans hevent, rfl, rfl, rfl⟩
  case eventFirst =>
    have hevent := State.feed_lastAck [write] hclock hstate hcur hw
    obtain ⟨t, hcommand, hsla, -, hdlen, ht⟩ := State.feed_write_accepted addr []
      (s := (s.taken .dataAckTx w [write]).complete) hclock rfl hcfg hlen
    rw [slaByte_write] at hsla
    exact ⟨_, hevent.trans hcommand, by rw [ht], by rw [ht], by rw [ht], hsla, hdlen⟩

end Sys2Proof.Machine
end
